-- ==== Sys2Proof/Word.lean ====
section
/-!
DEFINITION. The unit of every space of the block: the 8-bit byte (00_scope.md R9). Bit 7 of a byte is its most
significant bit and bit 0 its least (R8), which is how `BitVec 8` numbers them.
-/
namespace Sys2Proof

/-- One byte of a chunk, of a frame or of the buffer (R9). -/
abbrev Byte := BitVec 8

end Sys2Proof
end

