-- ==== Sys2Proof/Config.lean ====
section
/-!
DEFINITION. The block's fixed parameters (00_scope.md R7). "The block has no parameter left open to the model", so
there is no free value here and no field a machine could choose.
-/
namespace Sys2Proof.Config

/-- FRAME_SIZE (R7). -/
@[simp] abbrev frameSize : Nat := 188

/-- SYNC_BYTE (R7). -/
@[simp] abbrev syncByte : Byte := 0x47#8

/-- HEADER_SIZE: frame bytes 0 to 3 (R7). -/
@[simp] abbrev headerSize : Nat := 4

/-- AF_LENGTH_INDEX: the frame byte that holds the adaptation-field length (R7). -/
@[simp] abbrev afLengthIndex : Nat := 4

/-- AF_FLAGS_INDEX: the frame byte that holds the adaptation-field flags (R7). -/
@[simp] abbrev afFlagsIndex : Nat := 5

/-- AF_FIRST_SUBFIELD_INDEX: where the adaptation-field cursor starts (R7). -/
@[simp] abbrev afFirstSubfieldIndex : Nat := 6

/-- PAYLOAD_OFFSET_NO_AF (R7, R182; not 4, see 90_conflicts.md C6). -/
@[simp] abbrev payloadOffsetNoAf : Nat := 5

/-- BUFFER_CAPACITY (R7, R22). -/
@[simp] abbrev bufferCapacity : Nat := 187

/-- MAX_AF_LENGTH: the largest adaptation-field length that decodes (R7, R142). -/
@[simp] abbrev maxAfLength : Nat := 183

end Sys2Proof.Config
end

