-- ==== Sys2Proof/Syntax.lean ====
section
/-!
DEFINITION. The block's "instructions" (00_scope.md R6): the two host commands and the fourteen decode structures a
frame's control bits select, one constructor per row of spec/opcode_table.json, and the five formats the rows are
written in (30_encoding.md R75, R90).
-/
namespace Sys2Proof

/-- The formats of opcode_table.json: which word a row's pattern is laid over. The same byte means different things
in different formats (0x01 is FEED, length 1, or the extension flag), so a word is decoded in a format. -/
inductive Format where
  /-- A host command: its 8-bit code, then its operand (R90). -/
  | hostCmd
  /-- The header word H, frame bytes 0 to 3 (R61). -/
  | tsHeader32
  /-- The adaptation-field length byte, frame byte 4 (R63). -/
  | afLength8
  /-- The adaptation-field flags byte A, frame byte 5 (R64). -/
  | afFlags8
  /-- The extension flags byte X (R68). -/
  | afextFlags8
deriving DecidableEq, Repr

/-- The fields of the header word that do not select the packet kind (R61): everything but sync_byte and
adaptation_field_control. -/
structure HeaderFields where
  transportErrorIndicator : Bool
  payloadUnitStartIndicator : Bool
  transportPriority : Bool
  pid : BitVec 13
  transportScramblingControl : BitVec 2
  continuityCounter : BitVec 4
deriving DecidableEq, Repr

/-- One constructor per row of opcode_table.json. -/
inductive Instr where
  /-- RESET, code 0x00 (R107). -/
  | reset
  /-- FEED, code 0x01, with its chunk (R100). -/
  | feed (chunk : List Byte)
  /-- PKT_NONE, adaptation_field_control 00 (R183). -/
  | pktNone (h : HeaderFields)
  /-- PKT_PAYLOAD, adaptation_field_control 01 (R184). -/
  | pktPayload (h : HeaderFields)
  /-- PKT_AF, adaptation_field_control 10 (R185). -/
  | pktAf (h : HeaderFields)
  /-- PKT_AF_PAYLOAD, adaptation_field_control 11 (R186). -/
  | pktAfPayload (h : HeaderFields)
  /-- AF_EMPTY, length byte 0 (R141). -/
  | afEmpty
  /-- AF_BODY, any other length byte (R75, R142, R145). -/
  | afBody (length : Byte)
  /-- AF_PCR, A[4] (R148). -/
  | afPcr
  /-- AF_OPCR, A[3] (R149). -/
  | afOpcr
  /-- AF_SPLICE_COUNTDOWN, A[2] (R150). -/
  | afSpliceCountdown
  /-- AF_PRIVATE_DATA, A[1] (R151). -/
  | afPrivateData
  /-- AF_EXTENSION, A[0] (R152). -/
  | afExtension
  /-- EXT_LTW, X[7] (R157). -/
  | extLtw
  /-- EXT_PIECEWISE_RATE, X[6] (R158). -/
  | extPiecewiseRate
  /-- EXT_SEAMLESS_SPLICE, X[5] (R159). -/
  | extSeamlessSplice
deriving DecidableEq, Repr

/-- The format of each row of opcode_table.json. -/
def Instr.format : Instr → Format
  | .reset => .hostCmd
  | .feed _ => .hostCmd
  | .pktNone _ => .tsHeader32
  | .pktPayload _ => .tsHeader32
  | .pktAf _ => .tsHeader32
  | .pktAfPayload _ => .tsHeader32
  | .afEmpty => .afLength8
  | .afBody _ => .afLength8
  | .afPcr => .afFlags8
  | .afOpcr => .afFlags8
  | .afSpliceCountdown => .afFlags8
  | .afPrivateData => .afFlags8
  | .afExtension => .afFlags8
  | .extLtw => .afextFlags8
  | .extPiecewiseRate => .afextFlags8
  | .extSeamlessSplice => .afextFlags8

end Sys2Proof
end

