-- ==== Sys2Proof/WellFormed.lean ====
section
/-!
DEFINITION. Which terms of `Instr` some encoding spells. The field widths of 30_encoding.md R61 are in the types; the
one check left is that AF_BODY's length byte is not 0, since the value 0 selects AF_EMPTY (R75).
-/
namespace Sys2Proof

/-- An instruction that its format can spell (R75). A length byte of 184 to 255 is well formed: it selects AF_BODY,
whose meaning raises MalformedFieldError (R142). -/
def Instr.wellFormed : Instr → Bool
  | .afBody length => length != 0#8
  | .reset => true
  | .feed _ => true
  | .pktNone _ => true
  | .pktPayload _ => true
  | .pktAf _ => true
  | .pktAfPayload _ => true
  | .afEmpty => true
  | .afPcr => true
  | .afOpcr => true
  | .afSpliceCountdown => true
  | .afPrivateData => true
  | .afExtension => true
  | .extLtw => true
  | .extPiecewiseRate => true
  | .extSeamlessSplice => true

end Sys2Proof
end

