-- ==== Sys2Proof/Decode.lean ====
section
/-!
DEFINITION. Decoding: from the bytes of a word, in its format, to an instruction or a named rejection (30_encoding.md
R61, R63, R64, R68, R75, R76, R90), and the encoder written from the same tables.

Which format is read next is decided by where the block stands (Machine/Fetch.lean). The flags bytes select several
rows at once (R75: "it selects every sub-field whose flag is set, in the order of rule R74"), so they are decoded one
row at a time: the first selected one in that order.
-/
namespace Sys2Proof

/-- Why a word spells no instruction in its format. -/
inductive DecodeError where
  /-- Fewer bytes than the format has; no run of the block gives its decoder such a word. -/
  | truncated
  /-- A command code other than 0x00 and 0x01 (R90). -/
  | unknownCommand (code : Byte)
  /-- A header whose first byte is not 0x47 (R76). -/
  | syncMismatch
  /-- A flags byte that selects no further sub-field (R75, R146). -/
  | nothingSelected
deriving DecidableEq, Repr

/-- `v[hi:lo]` of a byte, as a natural (R8). -/
def bits (v : Byte) (hi lo : Nat) : Nat := v.toNat / 2 ^ lo % 2 ^ (hi + 1 - lo)

/-- The header fields of bytes F[1], F[2], F[3] (R61, R122 to R124). -/
def headerFieldsOf (b1 b2 b3 : Byte) : HeaderFields where
  transportErrorIndicator := b1[7]
  payloadUnitStartIndicator := b1[6]
  transportPriority := b1[5]
  pid := BitVec.ofNat 13 (bits b1 4 0 * 256 + b2.toNat)
  transportScramblingControl := BitVec.ofNat 2 (bits b3 7 6)
  continuityCounter := BitVec.ofNat 4 (bits b3 3 0)

/-- adaptation_field_control, F[3][5:4] (R61). -/
def afControlOf (b3 : Byte) : BitVec 2 := BitVec.ofNat 2 (bits b3 5 4)

/-- The packet kind that adaptation_field_control selects (R75). -/
def packetKind (afc : BitVec 2) (h : HeaderFields) : Instr :=
  if afc[1] then
    (if afc[0] then .pktAfPayload h else .pktAf h)
  else
    (if afc[0] then .pktPayload h else .pktNone h)

/-- A host command: the code, then the operand (R90). RESET has no operand and reads none (log 4). -/
def decodeHostCmd : List Byte → Except DecodeError Instr
  | [] => .error .truncated
  | code :: operand =>
    if code = 0x00#8 then .ok .reset
    else if code = 0x01#8 then .ok (.feed operand)
    else .error (.unknownCommand code)

/-- A header: the sync byte is checked before any other byte is looked at (R76, R121), then F[3][5:4] selects the
packet kind (R75). -/
def decodeTsHeader : List Byte → Except DecodeError Instr
  | [] => .error .truncated
  | b0 :: rest =>
    if b0 = Config.syncByte then
      match rest with
      | b1 :: b2 :: b3 :: _ => .ok (packetKind (afControlOf b3) (headerFieldsOf b1 b2 b3))
      | _ => .error .truncated
    else .error .syncMismatch

/-- The length byte (R63, R75): 0 selects AF_EMPTY, any other value AF_BODY. -/
def decodeAfLength : List Byte → Except DecodeError Instr
  | [] => .error .truncated
  | b :: _ => if b = 0#8 then .ok .afEmpty else .ok (.afBody b)

/-- The first sub-field a flags byte selects, in the order of R74: A[4], A[3], A[2], A[1], A[0] (R75). -/
def decodeAfFlags : List Byte → Except DecodeError Instr
  | [] => .error .truncated
  | a :: _ =>
    if a[4] then .ok .afPcr
    else if a[3] then .ok .afOpcr
    else if a[2] then .ok .afSpliceCountdown
    else if a[1] then .ok .afPrivateData
    else if a[0] then .ok .afExtension
    else .error .nothingSelected

/-- The first extension sub-field an extension flags byte selects: X[7], X[6], X[5] (R74, R75). X[4:0] are not read
(R78). -/
def decodeAfextFlags : List Byte → Except DecodeError Instr
  | [] => .error .truncated
  | x :: _ =>
    if x[7] then .ok .extLtw
    else if x[6] then .ok .extPiecewiseRate
    else if x[5] then .ok .extSeamlessSplice
    else .error .nothingSelected

/-- The decoder: total on any bytes, in each format. -/
def decode : Format → List Byte → Except DecodeError Instr
  | .hostCmd => decodeHostCmd
  | .tsHeader32 => decodeTsHeader
  | .afLength8 => decodeAfLength
  | .afFlags8 => decodeAfFlags
  | .afextFlags8 => decodeAfextFlags

/-! ### The encoder -/

/-- F[1]: the three flags, then the high five bits of pid (R61). -/
def headerByte1 (h : HeaderFields) : Byte :=
  BitVec.ofNat 8
    (h.transportErrorIndicator.toNat * 128 + h.payloadUnitStartIndicator.toNat * 64 +
      h.transportPriority.toNat * 32 + h.pid.toNat / 256)

/-- F[2]: the low eight bits of pid (R61). -/
def headerByte2 (h : HeaderFields) : Byte := BitVec.ofNat 8 h.pid.toNat

/-- F[3]: transport_scrambling_control, adaptation_field_control, continuity_counter (R61). -/
def headerByte3 (afc : BitVec 2) (h : HeaderFields) : Byte :=
  BitVec.ofNat 8 (h.transportScramblingControl.toNat * 64 + afc.toNat * 16 + h.continuityCounter.toNat)

/-- The four header bytes (R61). -/
def encodeHeader (afc : BitVec 2) (h : HeaderFields) : List Byte :=
  [Config.syncByte, headerByte1 h, headerByte2 h, headerByte3 afc h]

/-- The bytes of an instruction in its format. A flag row's word has that one flag set. -/
def encode : Instr → List Byte
  | .reset => [0x00#8]
  | .feed chunk => 0x01#8 :: chunk
  | .pktNone h => encodeHeader 0b00#2 h
  | .pktPayload h => encodeHeader 0b01#2 h
  | .pktAf h => encodeHeader 0b10#2 h
  | .pktAfPayload h => encodeHeader 0b11#2 h
  | .afEmpty => [0x00#8]
  | .afBody length => [length]
  | .afPcr => [0x10#8]
  | .afOpcr => [0x08#8]
  | .afSpliceCountdown => [0x04#8]
  | .afPrivateData => [0x02#8]
  | .afExtension => [0x01#8]
  | .extLtw => [0x80#8]
  | .extPiecewiseRate => [0x40#8]
  | .extSeamlessSplice => [0x20#8]

/-! ### The opcode table's patterns and words -/

/-- A row's mask in opcode_table.json. -/
def Instr.tableMask : Instr → Nat
  | .reset => 0xFF
  | .feed _ => 0xFF
  | .pktNone _ => 0xFF000030
  | .pktPayload _ => 0xFF000030
  | .pktAf _ => 0xFF000030
  | .pktAfPayload _ => 0xFF000030
  | .afEmpty => 0xFF
  | .afBody _ => 0x00
  | .afPcr => 0x10
  | .afOpcr => 0x08
  | .afSpliceCountdown => 0x04
  | .afPrivateData => 0x02
  | .afExtension => 0x01
  | .extLtw => 0x80
  | .extPiecewiseRate => 0x40
  | .extSeamlessSplice => 0x20

/-- A row's match in opcode_table.json. -/
def Instr.tableMatch : Instr → Nat
  | .reset => 0x00
  | .feed _ => 0x01
  | .pktNone _ => 0x47000000
  | .pktPayload _ => 0x47000010
  | .pktAf _ => 0x47000020
  | .pktAfPayload _ => 0x47000030
  | .afEmpty => 0x00
  | .afBody _ => 0x00
  | .afPcr => 0x10
  | .afOpcr => 0x08
  | .afSpliceCountdown => 0x04
  | .afPrivateData => 0x02
  | .afExtension => 0x01
  | .extLtw => 0x80
  | .extPiecewiseRate => 0x40
  | .extSeamlessSplice => 0x20

/-- The format a bare word of the opcode table is read in (log 11). A word of more than one byte is a header. A byte
that is a host command code is a command. A byte with exactly one flag bit is that flag's row, A[4:1] or X[7:5]. Any
other byte is a length byte. The table's rows 0x00 (RESET, AF_EMPTY) and 0x01 (FEED, AF_EXTENSION) share their word;
after reset the block reads a command there. -/
def tableFormat (nbits w : Nat) : Format :=
  if nbits > 8 then .tsHeader32
  else if w = 0x00 ∨ w = 0x01 then .hostCmd
  else if w = 0x02 ∨ w = 0x04 ∨ w = 0x08 ∨ w = 0x10 then .afFlags8
  else if w = 0x20 ∨ w = 0x40 ∨ w = 0x80 then .afextFlags8
  else .afLength8

/-- The bytes of a table word as the block meets them: a header word's first byte is H[31:24] (R61); a byte is itself,
with no operand after it. -/
def tableBytes (nbits w : Nat) : List Byte :=
  if nbits > 8 then
    [BitVec.ofNat 8 (w >>> 24), BitVec.ofNat 8 (w >>> 16), BitVec.ofNat 8 (w >>> 8), BitVec.ofNat 8 w]
  else [BitVec.ofNat 8 w]

/-- The instruction this decoder reads from a word of the opcode table. -/
def decodeTableWord (nbits w : Nat) : Option Instr :=
  match decode (tableFormat nbits w) (tableBytes nbits w) with
  | .ok i => some i
  | .error _ => none

end Sys2Proof
end

