-- ==== Sys2Proof/Machine/State.lean ====
section
/-!
DEFINITION. The state of the block as plain data (10_state.md), the records and events it outputs (R25 to R31), the
reasons a step stops, and the state after reset (R33, R230).
-/
namespace Sys2Proof.Machine

/-! ### Output records (10_state.md section 2) -/

/-- ClockRef (R28): the shape of pcr and opcr. -/
structure ClockRef where
  base : BitVec 33
  extension : BitVec 9
deriving DecidableEq, Repr

/-- The ltw option of AFExtension (R29). -/
structure Ltw where
  valid : Bool
  offset : BitVec 15
deriving DecidableEq, Repr

/-- The seamless_splice option of AFExtension (R29). -/
structure SeamlessSplice where
  spliceType : BitVec 4
  dtsNextAu : BitVec 33
deriving DecidableEq, Repr

/-- AFExtension (R29). "The extension's three flag bits are not fields of the record." -/
structure AFExtension where
  length : BitVec 8
  ltw : Option Ltw
  piecewiseRate : Option (BitVec 22)
  seamlessSplice : Option SeamlessSplice
deriving DecidableEq, Repr

/-- AFBody (R27). splice_countdown is the signed value itself, -128 to 127. -/
structure AFBody where
  discontinuityIndicator : Bool
  randomAccessIndicator : Bool
  elementaryStreamPriorityIndicator : Bool
  pcrFlag : Bool
  opcrFlag : Bool
  splicingPointFlag : Bool
  transportPrivateDataFlag : Bool
  adaptationFieldExtensionFlag : Bool
  pcr : Option ClockRef
  opcr : Option ClockRef
  spliceCountdown : Option Int
  privateData : Option (List Byte)
  extension : Option AFExtension
deriving DecidableEq, Repr

/-- AdaptationField (R26). -/
structure AdaptationField where
  length : BitVec 8
  body : Option AFBody
deriving DecidableEq, Repr

/-- PayloadView (R25): designates `raw_frame[offset:188]` of its own record. -/
structure PayloadView where
  offset : Nat
  length : Nat
deriving DecidableEq, Repr

/-- TsPacket (R25). -/
structure TsPacket where
  transportErrorIndicator : Bool
  payloadUnitStartIndicator : Bool
  transportPriority : Bool
  pid : BitVec 13
  transportScramblingControl : BitVec 2
  adaptationFieldControl : BitVec 2
  continuityCounter : BitVec 4
  adaptationField : Option AdaptationField
  payload : Option PayloadView
  rawFrame : List Byte
deriving DecidableEq, Repr

/-! ### Status and events (R31, 60_exceptions.md R201, R202) -/

/-- The three error kinds (R201). AllocationError is never raised (R203). -/
inductive ErrorKind where
  | syncError
  | allocationError
  | malformedFieldError
deriving DecidableEq, Repr

/-- The field ids of R202, by name. -/
inductive FieldId where
  | noField
  | afLength
  | pcr
  | opcr
  | spliceCountdown
  | privateDataLength
  | privateData
  | extensionLength
  | extensionFlags
  | ltw
  | piecewiseRate
  | seamlessSplice
  | frameBounds
deriving DecidableEq, Repr

/-- The status of a `Done` event (R31, R202): `OK` or `Err{code, frame_index, field}`. The numbers of the codes and
field ids are `ErrorKind.code` and `FieldId.id` (Machine/Flags.lean). -/
inductive Status where
  | ok
  | err (kind : ErrorKind) (frameIndex : Nat) (field : FieldId)
deriving DecidableEq, Repr

/-- What the host observes (R31). -/
inductive Event where
  | packet (rec : TsPacket)
  | done (status : Status)
deriving DecidableEq, Repr

/-- A command as the host gives it (R90): an 8-bit code and an operand byte string, captured by value (R49). -/
structure HostCommand where
  code : Byte
  operand : List Byte
deriving DecidableEq, Repr

/-! ### The transient values of a FEED (10_state.md R21, R32; 40_frame_reassembler.md R100) -/

/-- The seven header fields of the partly built record (R25, R120). -/
structure Header where
  fields : HeaderFields
  adaptationFieldControl : BitVec 2
deriving DecidableEq, Repr

/-- The decode of a non-empty adaptation field under way (42_adaptation_field_decoder.md R140): L, af_end, the cursor
c, the flags byte A, the flags whose sub-fields are still to be considered (R146), and the options decoded so far. -/
structure BodyWork where
  length : BitVec 8
  afEnd : Nat
  cursor : Nat
  flags : BitVec 8
  todo : BitVec 8
  pcr : Option ClockRef
  opcr : Option ClockRef
  spliceCountdown : Option Int
  privateData : Option (List Byte)
  extension : Option AFExtension
deriving DecidableEq, Repr

/-- The decode of an extension under way (R152): E, the flags of X whose sub-fields are still to be considered, and
the options decoded so far. The cursor is the one of `BodyWork`. -/
structure ExtWork where
  length : BitVec 8
  todo : BitVec 8
  ltw : Option Ltw
  piecewiseRate : Option (BitVec 22)
  seamlessSplice : Option SeamlessSplice
deriving DecidableEq, Repr

/-- Where the decode of the current frame stands in the pseudocode of R180 and R140. -/
inductive Stage where
  /-- The frame is cut and given to ASSEMBLE; DECODE_HEADER is next (R120). -/
  | header
  /-- The header is decoded and an adaptation field is present; its length byte is next (R140). -/
  | afLength (h : Header)
  /-- The flags byte is read; the sub-fields of `b.todo` are next (R146). -/
  | subfields (h : Header) (b : BodyWork)
  /-- The extension's length and flags bytes are read; the extension sub-fields of `x.todo` are next (R152). -/
  | extension (h : Header) (b : BodyWork) (x : ExtWork)
  /-- ASSEMBLE has returned the record; PROCESS emits it next (R100, R105). -/
  | assembled (rec : TsPacket)
deriving DecidableEq, Repr

/-- A FEED under way (R100): B0, the chunk, the chunk cursor `cur`, the frame index j, the frame F being decoded, and
where its decode stands. -/
structure FeedWork where
  saved : List Byte
  chunk : List Byte
  cur : Nat
  frameIndex : Nat
  frame : List Byte
  stage : Stage
deriving DecidableEq, Repr

/-- The whole state. `buffer` is B, the block's only state between commands (R20, R22). `feed` is there only while a
FEED runs: its cursors and values "do not exist" outside it (R33). `pending` is the commands the host has still to
issue, in order (R233; the model's own field, log 2). `output` is the events output so far, oldest first (R31, R33). -/
structure State where
  buffer : List Byte
  feed : Option FeedWork
  pending : List HostCommand
  output : List Event
deriving DecidableEq, Repr

/-- The reasons the machine stops with a fault. No error of R201 is one of them: those are next states (R205). -/
inductive Fault where
  /-- Raised by the meaning of a decode structure (every row but RESET and FEED) executed where the block does not
  stand at that structure, for which the spec gives it no effect (R75). No step does so: the block only runs the
  structure its frame selects. Safe: a stop where nothing is stated (log 6). -/
  | structureNotSelected
deriving DecidableEq, Repr

/-- The reasons the machine refuses. -/
inductive Refusal where
  /-- No meaning yet for the instruction of this mnemonic. Raised by no arm of this model. Safe: a stop. -/
  | notModelled (mnemonic : String)
  /-- Raised by the fetch of a command whose code is neither 0x00 nor 0x01: "The model refuses it, with no state
  change and no event" (R90). Safe: a stop. -/
  | unknownCommand (code : Byte)
  /-- Raised by RESET and FEED executed while a FEED runs: "A model gives overlapping commands on one instance no
  meaning" (R233). No step does so: a command is fetched only between commands. Safe: a stop. -/
  | overlappingCommand
deriving DecidableEq, Repr

/-- Power-on and reset: B empty, no FEED under way (R33, R230, D3). No command has been issued and no event output
(log 2, log 3). -/
def State.reset : State where
  buffer := []
  feed := none
  pending := []
  output := []

end Sys2Proof.Machine
end

