-- ==== Sys2Proof/Machine/Flags.lean ====
section
/-!
DEFINITION. Flag bytes and code numbers: marking a flag as considered (42_adaptation_field_decoder.md R146), the eight
flags of the record (R145, R161), and the numbers of the error codes and field ids (60_exceptions.md R201, R202).
-/
namespace Sys2Proof.Machine

/-- The flags byte with bit `k` cleared: that sub-field has been considered, and the next one in order is the first
flag still set (R146). -/
def clearFlag (todo : Byte) (k : Nat) : Byte := todo &&& ~~~(1#8 <<< k)

/-- The AFBody of a finished decode: the eight flags of A (R64, R145) and the options (R161). -/
def bodyOf (b : BodyWork) : AFBody where
  discontinuityIndicator := b.flags[7]
  randomAccessIndicator := b.flags[6]
  elementaryStreamPriorityIndicator := b.flags[5]
  pcrFlag := b.flags[4]
  opcrFlag := b.flags[3]
  splicingPointFlag := b.flags[2]
  transportPrivateDataFlag := b.flags[1]
  adaptationFieldExtensionFlag := b.flags[0]
  pcr := b.pcr
  opcr := b.opcr
  spliceCountdown := b.spliceCountdown
  privateData := b.privateData
  extension := b.extension

/-- The numeric code of an error (R201). Code 0 is status OK. -/
def ErrorKind.code : ErrorKind → Nat
  | .syncError => 1
  | .allocationError => 2
  | .malformedFieldError => 3

/-- The numeric field id (R202). -/
def FieldId.id : FieldId → Nat
  | .noField => 0
  | .afLength => 1
  | .pcr => 2
  | .opcr => 3
  | .spliceCountdown => 4
  | .privateDataLength => 5
  | .privateData => 6
  | .extensionLength => 7
  | .extensionFlags => 8
  | .ltw => 9
  | .piecewiseRate => 10
  | .seamlessSplice => 11
  | .frameBounds => 12

/-- The code of a status: 0 for OK (R201). -/
def Status.code : Status → Nat
  | .ok => 0
  | .err kind _ _ => kind.code

end Sys2Proof.Machine
end

