-- ==== Sys2Proof/Machine/Ops.lean ====
section
/-!
DEFINITION. The shared operations: reading the frame (20_memory.md R40 to R44, R51), the bounds check `need`
(42_adaptation_field_decoder.md R144), forming a record (43_packet_assembler.md R180, R181), emitting an event
(10_state.md R31), cutting frames (40_frame_reassembler.md R101 to R104), and taking an error (R105, R205). There is no
return from an error to model: "There is no return-from-error command" (R206).
-/
namespace Sys2Proof.Machine

/-! ### Reading bytes -/

/-- `S[i]` (R9). Every read of a frame is guarded by `claim`, so an index outside the frame is never read. -/
def byteAt (S : List Byte) (i : Nat) : Byte := S.getD i 0#8

/-- `S[a:b]`, empty when a >= b (R9). -/
def slice (S : List Byte) (a b : Nat) : List Byte := (S.drop a).take (b - a)

/-- A byte string read as an integer, first byte most significant (R9, R41), above the bytes already read. -/
def bigEndian (acc : Nat) : List Byte → Nat
  | [] => acc
  | b :: rest => bigEndian (acc * 256 + b.toNat) rest

/-- `MemRead(a, n)` on the frame (R11, R42). -/
def memRead (F : List Byte) (a n : Nat) : Nat := bigEndian 0 (slice F a (a + n))

/-- `need(c, w, f)` (R144). -/
def need (afEnd c w : Nat) (f : FieldId) : Except FieldId Unit :=
  if c + w ≤ afEnd then .ok () else .error f

/-- The backstop of R51: a read of `n` bytes at `a` that would leave the frame raises FRAME_BOUNDS. -/
def backstop (F : List Byte) (a n : Nat) : Except FieldId Unit :=
  if a + n ≤ F.length then .ok () else .error .frameBounds

/-- The check before the `w` bytes at cursor `c` are read: `need`, then the backstop (R144, R51). -/
def claim (F : List Byte) (afEnd c w : Nat) (f : FieldId) : Except FieldId Unit :=
  match need afEnd c w f with
  | .ok _ => backstop F c w
  | .error e => .error e

/-- A sub-field of fixed width: check, decode, advance the cursor by exactly the width (R144, R146, R73). -/
def readField {α : Type} (F : List Byte) (afEnd c w : Nat) (f : FieldId) (value : α) : Except FieldId (α × Nat) :=
  match claim F afEnd c w f with
  | .ok _ => .ok (value, c + w)
  | .error e => .error e

/-! ### Records -/

/-- The payload's start: 5 + length with an adaptation field, 5 without (R181, R182). -/
def payloadOffset : Option AdaptationField → Nat
  | some af => 5 + af.length.toNat
  | none => Config.payloadOffsetNoAf

/-- The payload view, present exactly when adaptation_field_control bit 0 is set (R181). -/
def payloadView (afc : BitVec 2) (off : Nat) : Option PayloadView :=
  if afc[0] then some { offset := off, length := Config.frameSize - off } else none

/-- The record ASSEMBLE returns (R180, R188). -/
def assembleRecord (F : List Byte) (h : Header) (af : Option AdaptationField) : TsPacket where
  transportErrorIndicator := h.fields.transportErrorIndicator
  payloadUnitStartIndicator := h.fields.payloadUnitStartIndicator
  transportPriority := h.fields.transportPriority
  pid := h.fields.pid
  transportScramblingControl := h.fields.transportScramblingControl
  adaptationFieldControl := h.adaptationFieldControl
  continuityCounter := h.fields.continuityCounter
  adaptationField := af
  payload := payloadView h.adaptationFieldControl (payloadOffset af)
  rawFrame := F

/-! ### Events and errors -/

/-- Output an event: it comes after every event output before it (R31, R46). -/
def State.emit (e : Event) (s : State) : State := { s with output := s.output ++ [e] }

/-- The FEED `w` is at stage `st`; nothing else changes. -/
def State.setStage (w : FeedWork) (st : Stage) (s : State) : State := { s with feed := some { w with stage := st } }

/-- TAKING AN ERROR, the one operation for all of them (R105, R205): the decode of frame j stops, no record is emitted
for it, B is restored to its value before the FEED, the rest of the chunk is dropped, and the FEED ends with
`Done(Err{code, frame_index = j, field})` (R202). -/
def raise (w : FeedWork) (kind : ErrorKind) (field : FieldId) (s : State) : State :=
  { s.emit (.done (.err kind w.frameIndex field)) with buffer := w.saved, feed := none }

/-- The end of a decode structure: the next stage, or the MalformedFieldError its check raised (R144, R205). -/
def advance (w : FeedWork) (r : Except FieldId Stage) (s : State) : Host.Outcome State Fault Refusal :=
  match r with
  | .ok st => .next (s.setStage w st)
  | .error f => .next (raise w .malformedFieldError f s)

/-! ### Cutting frames -/

/-- FEED up to its first frame: the filling case ends the command (R101); otherwise the first frame is B and the first
bytes of the chunk (R102). -/
def beginFeed (chunk : List Byte) (s : State) : State :=
  if s.buffer.length + chunk.length < Config.frameSize then
    { s.emit (.done .ok) with buffer := s.buffer ++ chunk }
  else
    { s with
      feed := some
        { saved := s.buffer
          chunk := chunk
          cur := Config.frameSize - s.buffer.length
          frameIndex := 0
          frame := s.buffer ++ slice chunk 0 (Config.frameSize - s.buffer.length)
          stage := .header } }

/-- The chunk cursor after the frame under decode has been processed: the first frame's bytes are already behind it
(R102), and a strided frame moves it by 188 (R103). -/
def cursorAfterFrame (w : FeedWork) : Nat :=
  if w.frameIndex = 0 then w.cur else w.cur + Config.frameSize

/-- PROCESS's `emit(rec)` and the loop of R100: the record is output (R105), and either the next frame is cut (R103) or
the remainder becomes B and the FEED ends with `Done(OK)` (R104). -/
def finishFrame (w : FeedWork) (rec : TsPacket) (s : State) : State :=
  if Config.frameSize ≤ w.chunk.length - cursorAfterFrame w then
    { s.emit (.packet rec) with
      feed := some
        { w with
          cur := cursorAfterFrame w
          frameIndex := w.frameIndex + 1
          frame := slice w.chunk (cursorAfterFrame w) (cursorAfterFrame w + Config.frameSize)
          stage := .header } }
  else
    { (s.emit (.packet rec)).emit (.done .ok) with
      buffer := slice w.chunk (cursorAfterFrame w) w.chunk.length
      feed := none }

/-- The end of the extension's sub-fields: the extension record (R160). -/
def closeExtension (w : FeedWork) (h : Header) (b : BodyWork) (x : ExtWork) (s : State) : State :=
  s.setStage w (.subfields h
    { b with
      extension := some
        { length := x.length, ltw := x.ltw, piecewiseRate := x.piecewiseRate, seamlessSplice := x.seamlessSplice } })

/-- The end of the sub-fields: the AdaptationField (R161) and with it the record (R180). -/
def closeBody (w : FeedWork) (h : Header) (b : BodyWork) (s : State) : State :=
  s.setStage w (.assembled (assembleRecord w.frame h (some { length := b.length, body := some (bodyOf b) })))

/-! ### Where an instruction may run -/

/-- A host command runs between commands only (R46, R233). -/
def onIdle (s : State) (k : State → State) : Host.Outcome State Fault Refusal :=
  match s.feed with
  | none => .next (k s)
  | some _ => .refused .overlappingCommand

/-- A packet kind runs where a cut frame's header is decoded (R180). -/
def onHeader (s : State) (k : FeedWork → Host.Outcome State Fault Refusal) : Host.Outcome State Fault Refusal :=
  match s.feed with
  | some w =>
    match w.stage with
    | .header => k w
    | _ => .fault .structureNotSelected
  | none => .fault .structureNotSelected

/-- AF_EMPTY and AF_BODY run where the length byte is decoded (R140). -/
def onAfLength (s : State) (k : FeedWork → Header → Host.Outcome State Fault Refusal) :
    Host.Outcome State Fault Refusal :=
  match s.feed with
  | some w =>
    match w.stage with
    | .afLength h => k w h
    | _ => .fault .structureNotSelected
  | none => .fault .structureNotSelected

/-- A sub-field runs where the adaptation field's sub-fields are decoded (R146). -/
def onSubfields (s : State) (k : FeedWork → Header → BodyWork → Host.Outcome State Fault Refusal) :
    Host.Outcome State Fault Refusal :=
  match s.feed with
  | some w =>
    match w.stage with
    | .subfields h b => k w h b
    | _ => .fault .structureNotSelected
  | none => .fault .structureNotSelected

/-- An extension sub-field runs where the extension's sub-fields are decoded (R152). -/
def onExtension (s : State) (k : FeedWork → Header → BodyWork → ExtWork → Host.Outcome State Fault Refusal) :
    Host.Outcome State Fault Refusal :=
  match s.feed with
  | some w =>
    match w.stage with
    | .extension h b x => k w h b x
    | _ => .fault .structureNotSelected
  | none => .fault .structureNotSelected

end Sys2Proof.Machine
end

