-- ==== Sys2Proof/Machine/Operands.lean ====
section
/-!
DEFINITION. The operands of the decode structures: how each value is assembled from the frame's bytes at the cursor
(30_encoding.md R65 to R71; 42_adaptation_field_decoder.md R147 to R159), and each sub-field's reader: its bounds
checks in order, its value and the cursor after it. Arithmetic is on naturals, and the result is then stored in a
field of the record's width (00_scope.md R10); Sys2Proof/Laws/Operands.lean shows that nothing is cut off.
-/
namespace Sys2Proof.Machine

/-- `sext_8(b)` (R10, D20). -/
def sext8 (b : Byte) : Int := if b.toNat < 128 then (b.toNat : Int) else (b.toNat : Int) - 256

/-- `clockref(c)` (R147, R65). -/
def clockRef (F : List Byte) (c : Nat) : ClockRef where
  base := BitVec.ofNat 33 (memRead F c 4 * 2 + bits (byteAt F (c + 4)) 7 7)
  extension := BitVec.ofNat 9 (bits (byteAt F (c + 4)) 0 0 * 256 + (byteAt F (c + 5)).toNat)

/-- The LTW value (R157, R69). -/
def ltwValue (F : List Byte) (c : Nat) : Ltw where
  valid := (byteAt F c)[7]
  offset := BitVec.ofNat 15 (bits (byteAt F c) 6 0 * 256 + (byteAt F (c + 1)).toNat)

/-- The piecewise rate (R158, R70). -/
def piecewiseRateValue (F : List Byte) (c : Nat) : BitVec 22 :=
  BitVec.ofNat 22
    (bits (byteAt F c) 5 0 * 65536 + (byteAt F (c + 1)).toNat * 256 + (byteAt F (c + 2)).toNat)

/-- The seamless-splice value (R159, R71): the source's formula, with `+` and not OR (90_conflicts.md C7), and "high 7
bits of byte2" in place (D6). -/
def seamlessSpliceValue (F : List Byte) (c : Nat) : SeamlessSplice where
  spliceType := BitVec.ofNat 4 ((byteAt F c).toNat >>> 4)
  dtsNextAu := BitVec.ofNat 33
    ((byteAt F c &&& 0x07#8).toNat * 2 ^ 29 + (byteAt F (c + 1)).toNat * 2 ^ 22 +
      (byteAt F (c + 2) &&& 0xFE#8).toNat * 2 ^ 14 + (byteAt F (c + 3)).toNat * 2 ^ 7 +
      ((byteAt F (c + 4) &&& 0xFE#8).toNat >>> 1))

/-- PCR and OPCR: `need(c, 6, f)`, then `clockref(c)` (R148, R149). -/
def readClockRef (F : List Byte) (afEnd c : Nat) (f : FieldId) : Except FieldId (ClockRef × Nat) :=
  readField F afEnd c 6 f (clockRef F c)

/-- splice_countdown (R150). -/
def readSpliceCountdown (F : List Byte) (afEnd c : Nat) : Except FieldId (Int × Nat) :=
  readField F afEnd c 1 .spliceCountdown (sext8 (byteAt F c))

/-- private_data: the length byte P, then the P bytes, each part with its own check (R151). -/
def readPrivateData (F : List Byte) (afEnd c : Nat) : Except FieldId (List Byte × Nat) :=
  match claim F afEnd c 1 .privateDataLength with
  | .ok _ =>
    readField F afEnd (c + 1) (byteAt F c).toNat .privateData (slice F (c + 1) (c + 1 + (byteAt F c).toNat))
  | .error e => .error e

/-- The extension header: E, then X, each with its own check; X is read even if E = 0 (R152, R153, R154). -/
def readExtensionHeader (F : List Byte) (afEnd c : Nat) : Except FieldId ((Byte × Byte) × Nat) :=
  match claim F afEnd c 1 .extensionLength with
  | .ok _ => readField F afEnd (c + 1) 1 .extensionFlags (byteAt F c, byteAt F (c + 1))
  | .error e => .error e

/-- LTW (R157). -/
def readLtw (F : List Byte) (afEnd c : Nat) : Except FieldId (Ltw × Nat) :=
  readField F afEnd c 2 .ltw (ltwValue F c)

/-- Piecewise rate (R158). -/
def readPiecewiseRate (F : List Byte) (afEnd c : Nat) : Except FieldId (BitVec 22 × Nat) :=
  readField F afEnd c 3 .piecewiseRate (piecewiseRateValue F c)

/-- Seamless splice (R159). -/
def readSeamlessSplice (F : List Byte) (afEnd c : Nat) : Except FieldId (SeamlessSplice × Nat) :=
  readField F afEnd c 5 .seamlessSplice (seamlessSpliceValue F c)

/-- The length byte of AF_BODY and what it needs before the sub-fields: a length above 183 raises AF_LENGTH before
F[5] is read (R142); otherwise af_end = 5 + L, the cursor is 6, and the flags byte A = F[5] is read (R143, R145). -/
def readBodyStart (F : List Byte) (length : Byte) : Except FieldId BodyWork :=
  if Config.maxAfLength < length.toNat then .error .afLength
  else
    match backstop F Config.afFlagsIndex 1 with
    | .ok _ =>
      .ok
        { length := length
          afEnd := 5 + length.toNat
          cursor := Config.afFirstSubfieldIndex
          flags := byteAt F Config.afFlagsIndex
          todo := byteAt F Config.afFlagsIndex
          pcr := none
          opcr := none
          spliceCountdown := none
          privateData := none
          extension := none }
    | .error e => .error e

end Sys2Proof.Machine
end

