-- ==== Sys2Proof/Machine/AdaptationField.lean ====
section
/-!
DEFINITION. The adaptation field and its five sub-fields (42_adaptation_field_decoder.md R141 to R154). Each sub-field
checks its bound, is decoded at the cursor, and advances the cursor by its exact width (R146).
-/
namespace Sys2Proof.Machine

/-- AF_EMPTY (R141): `{length: 0, body: none}`; F[5] is not read. -/
def execAfEmpty (s : State) : Host.Outcome State Fault Refusal :=
  onAfLength s fun w h =>
    .next (s.setStage w (.assembled (assembleRecord w.frame h (some { length := 0#8, body := none }))))

/-- AF_BODY (R142, R143, R145): the length bound, the AF region and cursor, and the eight flags. -/
def execAfBody (length : Byte) (s : State) : Host.Outcome State Fault Refusal :=
  onAfLength s fun w h => advance w ((readBodyStart w.frame length).map fun b => .subfields h b) s

/-- AF_PCR (R148). -/
def execAfPcr (s : State) : Host.Outcome State Fault Refusal :=
  onSubfields s fun w h b =>
    advance w ((readClockRef w.frame b.afEnd b.cursor .pcr).map fun r =>
      .subfields h { b with pcr := some r.1, cursor := r.2, todo := clearFlag b.todo 4 }) s

/-- AF_OPCR (R149). -/
def execAfOpcr (s : State) : Host.Outcome State Fault Refusal :=
  onSubfields s fun w h b =>
    advance w ((readClockRef w.frame b.afEnd b.cursor .opcr).map fun r =>
      .subfields h { b with opcr := some r.1, cursor := r.2, todo := clearFlag b.todo 3 }) s

/-- AF_SPLICE_COUNTDOWN (R150). -/
def execAfSpliceCountdown (s : State) : Host.Outcome State Fault Refusal :=
  onSubfields s fun w h b =>
    advance w ((readSpliceCountdown w.frame b.afEnd b.cursor).map fun r =>
      .subfields h { b with spliceCountdown := some r.1, cursor := r.2, todo := clearFlag b.todo 2 }) s

/-- AF_PRIVATE_DATA (R151). P = 0 gives an empty private_data that is present. -/
def execAfPrivateData (s : State) : Host.Outcome State Fault Refusal :=
  onSubfields s fun w h b =>
    advance w ((readPrivateData w.frame b.afEnd b.cursor).map fun r =>
      .subfields h { b with privateData := some r.1, cursor := r.2, todo := clearFlag b.todo 1 }) s

/-- AF_EXTENSION (R152, R153, R154): E and X are read; the sub-fields X selects are next, and then R160
(`closeExtension`). -/
def execAfExtension (s : State) : Host.Outcome State Fault Refusal :=
  onSubfields s fun w h b =>
    advance w ((readExtensionHeader w.frame b.afEnd b.cursor).map fun r =>
      .extension h { b with cursor := r.2, todo := clearFlag b.todo 0 }
        { length := r.1.1, todo := r.1.2, ltw := none, piecewiseRate := none, seamlessSplice := none }) s

end Sys2Proof.Machine
end

