-- ==== Sys2Proof/Machine/Extension.lean ====
section
/-!
DEFINITION. The three extension sub-fields (42_adaptation_field_decoder.md R157 to R159), bounded by the AF region and
not by the extension length (R153).
-/
namespace Sys2Proof.Machine

/-- EXT_LTW (R157). -/
def execExtLtw (s : State) : Host.Outcome State Fault Refusal :=
  onExtension s fun w h b x =>
    advance w ((readLtw w.frame b.afEnd b.cursor).map fun r =>
      .extension h { b with cursor := r.2 } { x with ltw := some r.1, todo := clearFlag x.todo 7 }) s

/-- EXT_PIECEWISE_RATE (R158). -/
def execExtPiecewiseRate (s : State) : Host.Outcome State Fault Refusal :=
  onExtension s fun w h b x =>
    advance w ((readPiecewiseRate w.frame b.afEnd b.cursor).map fun r =>
      .extension h { b with cursor := r.2 } { x with piecewiseRate := some r.1, todo := clearFlag x.todo 6 }) s

/-- EXT_SEAMLESS_SPLICE (R159). -/
def execExtSeamlessSplice (s : State) : Host.Outcome State Fault Refusal :=
  onExtension s fun w h b x =>
    advance w ((readSeamlessSplice w.frame b.afEnd b.cursor).map fun r =>
      .extension h { b with cursor := r.2 } { x with seamlessSplice := some r.1, todo := clearFlag x.todo 5 }) s

end Sys2Proof.Machine
end

