-- ==== Sys2Proof/Machine/HostCommand.lean ====
section
/-!
DEFINITION. The two host commands (40_frame_reassembler.md R100 to R107).
-/
namespace Sys2Proof.Machine

/-- RESET (R107): `B <- empty; Done(OK)`. Events already output stay (R231). -/
def execReset (s : State) : Host.Outcome State Fault Refusal :=
  onIdle s fun s => { s.emit (.done .ok) with buffer := [] }

/-- FEED (R100): the filling case whole (R101), or the first frame cut and given to ASSEMBLE (R102). The frames after
it are cut by `finishFrame` (R103, R104), which is FEED's loop (log 1). -/
def execFeed (chunk : List Byte) (s : State) : Host.Outcome State Fault Refusal :=
  onIdle s (beginFeed chunk)

end Sys2Proof.Machine
end

