-- ==== Sys2Proof/Machine/PacketKind.lean ====
section
/-!
DEFINITION. The four packet kinds (43_packet_assembler.md R183 to R186): the header's fields go into the record, and
adaptation_field_control says whether an adaptation field is decoded and whether the payload is there.
-/
namespace Sys2Proof.Machine

/-- PKT_NONE (R183): neither adaptation field nor payload; not an error. -/
def execPktNone (h : HeaderFields) (s : State) : Host.Outcome State Fault Refusal :=
  onHeader s fun w =>
    .next (s.setStage w (.assembled (assembleRecord w.frame { fields := h, adaptationFieldControl := 0b00#2 } none)))

/-- PKT_PAYLOAD (R184): payload {5, 183}; F[4] is not read (R182). -/
def execPktPayload (h : HeaderFields) (s : State) : Host.Outcome State Fault Refusal :=
  onHeader s fun w =>
    .next (s.setStage w (.assembled (assembleRecord w.frame { fields := h, adaptationFieldControl := 0b01#2 } none)))

/-- PKT_AF (R185): DECODE_AF is next; no payload. -/
def execPktAf (h : HeaderFields) (s : State) : Host.Outcome State Fault Refusal :=
  onHeader s fun w => .next (s.setStage w (.afLength { fields := h, adaptationFieldControl := 0b10#2 }))

/-- PKT_AF_PAYLOAD (R186): DECODE_AF is next; the payload starts after the adaptation field. -/
def execPktAfPayload (h : HeaderFields) (s : State) : Host.Outcome State Fault Refusal :=
  onHeader s fun w => .next (s.setStage w (.afLength { fields := h, adaptationFieldControl := 0b11#2 }))

end Sys2Proof.Machine
end

