-- ==== Sys2Proof/Machine/Dispatch.lean ====
section
/-!
DEFINITION. The one match from an instruction to its meaning.
-/
namespace Sys2Proof.Machine

def exec (i : Instr) (s : State) : Host.Outcome State Fault Refusal :=
  match i with
  | .reset => Sys2Proof.Machine.execReset s
  | .feed chunk => Sys2Proof.Machine.execFeed chunk s
  | .pktNone h => Sys2Proof.Machine.execPktNone h s
  | .pktPayload h => Sys2Proof.Machine.execPktPayload h s
  | .pktAf h => Sys2Proof.Machine.execPktAf h s
  | .pktAfPayload h => Sys2Proof.Machine.execPktAfPayload h s
  | .afEmpty => Sys2Proof.Machine.execAfEmpty s
  | .afBody length => Sys2Proof.Machine.execAfBody length s
  | .afPcr => Sys2Proof.Machine.execAfPcr s
  | .afOpcr => Sys2Proof.Machine.execAfOpcr s
  | .afSpliceCountdown => Sys2Proof.Machine.execAfSpliceCountdown s
  | .afPrivateData => Sys2Proof.Machine.execAfPrivateData s
  | .afExtension => Sys2Proof.Machine.execAfExtension s
  | .extLtw => Sys2Proof.Machine.execExtLtw s
  | .extPiecewiseRate => Sys2Proof.Machine.execExtPiecewiseRate s
  | .extSeamlessSplice => Sys2Proof.Machine.execExtSeamlessSplice s

end Sys2Proof.Machine
end

