-- ==== Sys2Proof/Machine/Fetch.lean ====
section
/-!
DEFINITION. What the block does next from where it stands: which word it decodes, in which format, and what happens
where that word selects no instruction (20_memory.md R46; 30_encoding.md R75, R76, R90; 43_packet_assembler.md R180).
-/
namespace Sys2Proof.Machine

/-- What comes next. -/
inductive Fetched where
  /-- The word selects instruction `i`, which runs in `s`. -/
  | instr (i : Instr) (s : State)
  /-- No instruction is selected here, and the block's own control moves it to `s`. -/
  | control (s : State)
  /-- The command is refused. -/
  | stop (r : Refusal)
deriving DecidableEq, Repr

/-- Between commands: the next command is taken (R233), refused if its code spells none (R90); with no command the
block is idle and nothing changes (R213). -/
def fetchCommand (s : State) : Fetched :=
  match s.pending with
  | [] => .control s
  | cmd :: rest =>
    match decode .hostCmd (cmd.code :: cmd.operand) with
    | .ok i => .instr i { s with pending := rest }
    | .error _ => .stop (.unknownCommand cmd.code)

/-- The error of a frame word that spells nothing: a wrong sync byte raises SyncError with field id NONE (R121, R202);
a word the frame is too short for is the backstop's case (R51), which no run reaches. -/
def raiseUnspelled (w : FeedWork) (e : DecodeError) (s : State) : State :=
  match e with
  | .syncMismatch => raise w .syncError .noField s
  | _ => raise w .malformedFieldError .frameBounds s

/-- At a cut frame's header: the four header bytes (R61, R120). -/
def fetchHeader (w : FeedWork) (s : State) : Fetched :=
  match decode .tsHeader32 (slice w.frame 0 Config.headerSize) with
  | .ok i => .instr i s
  | .error e => .control (raiseUnspelled w e s)

/-- At the adaptation field's length byte, F[4] (R63, R140). -/
def fetchAfLength (w : FeedWork) (s : State) : Fetched :=
  match decode .afLength8 (slice w.frame Config.afLengthIndex (Config.afLengthIndex + 1)) with
  | .ok i => .instr i s
  | .error e => .control (raiseUnspelled w e s)

/-- At the sub-fields: the first flagged one still to be considered, or the end of the adaptation field (R146, R161). -/
def fetchSubfield (w : FeedWork) (h : Header) (b : BodyWork) (s : State) : Fetched :=
  match decode .afFlags8 [b.todo] with
  | .ok i => .instr i s
  | .error _ => .control (closeBody w h b s)

/-- At the extension sub-fields: the first flagged one still to be considered, or the end of the extension (R152,
R160). -/
def fetchExtension (w : FeedWork) (h : Header) (b : BodyWork) (x : ExtWork) (s : State) : Fetched :=
  match decode .afextFlags8 [x.todo] with
  | .ok i => .instr i s
  | .error _ => .control (closeExtension w h b x s)

/-- What comes next from `s`. A FEED under way is finished before another command is taken (R46). -/
def fetch (s : State) : Fetched :=
  match s.feed with
  | none => fetchCommand s
  | some w =>
    match w.stage with
    | .header => fetchHeader w s
    | .afLength _ => fetchAfLength w s
    | .subfields h b => fetchSubfield w h b s
    | .extension h b x => fetchExtension w h b x s
    | .assembled rec => .control (finishFrame w rec s)

/-! ### Placing one word of the opcode table where the next step fetches (log 12) -/

/-- A frame that starts with the bytes `start`; the bytes not listed are 00, as in R91's FRAME. -/
def frameStarting (start : List Byte) : List Byte :=
  start ++ List.replicate (Config.frameSize - start.length) 0#8

/-- The FEED of exactly one frame, at stage `st`, B being as it is. -/
def feedOfFrame (s : State) (frame : List Byte) (st : Stage) : FeedWork where
  saved := s.buffer
  chunk := frame
  cur := frame.length
  frameIndex := 0
  frame := frame
  stage := st

/-- A header with an adaptation field and a payload, all else 0. -/
def plainHeader : Header where
  fields :=
    { transportErrorIndicator := false
      payloadUnitStartIndicator := false
      transportPriority := false
      pid := 0#13
      transportScramblingControl := 0#2
      continuityCounter := 0#4 }
  adaptationFieldControl := 0b11#2

/-- The start of the longest adaptation field (183 bytes), with flags byte `a`, cursor at 6. -/
def plainBody (a : Byte) : BodyWork where
  length := 0xB7#8
  afEnd := 188
  cursor := 6
  flags := a
  todo := a
  pcr := none
  opcr := none
  spliceCountdown := none
  privateData := none
  extension := none

/-- `s` with the bytes `word`, in format `fmt`, where the next step fetches. -/
def placeWord (s : State) (fmt : Format) (word : List Byte) : State :=
  match fmt with
  | .hostCmd =>
    { s with feed := none, pending := { code := byteAt word 0, operand := slice word 1 word.length } :: s.pending }
  | .tsHeader32 =>
    { s with feed := some (feedOfFrame s (frameStarting word) .header) }
  | .afLength8 =>
    { s with
      feed := some (feedOfFrame s (frameStarting ([0x47#8, 0x00#8, 0x00#8, 0x30#8] ++ word)) (.afLength plainHeader)) }
  | .afFlags8 =>
    { s with
      feed := some
        (feedOfFrame s (frameStarting ([0x47#8, 0x00#8, 0x00#8, 0x30#8, 0xB7#8] ++ word))
          (.subfields plainHeader (plainBody (byteAt word 0)))) }
  | .afextFlags8 =>
    { s with
      feed := some
        (feedOfFrame s (frameStarting ([0x47#8, 0x00#8, 0x00#8, 0x30#8, 0xB7#8, 0x01#8, 0x00#8] ++ word))
          (.extension plainHeader
            { plainBody 0x01#8 with cursor := 8, todo := 0x00#8 }
            { length := 0#8, todo := byteAt word 0, ltw := none, piecewiseRate := none, seamlessSplice := none })) }

end Sys2Proof.Machine
end

