-- ==== Sys2Proof/Machine/Step.lean ====
section
/-!
DEFINITION. One step (log 1): the instruction selected where the block stands, or the block's own control where none is.
-/
namespace Sys2Proof.Machine

/-- One step of the block. -/
def step (s : State) : Host.Outcome State Fault Refusal :=
  match fetch s with
  | .instr i s' => exec i s'
  | .control s' => .next s'
  | .stop r => .refused r

/-- The state whose very next step runs the instruction of table word `w` (log 12). -/
def State.withFetchWord (s : State) (nbits w : Nat) : State :=
  placeWord s (tableFormat nbits w) (tableBytes nbits w)

end Sys2Proof.Machine
end

