-- ==== Sys2Proof/Machine/Transaction.lean ====
section
/-!
DEFINITION. The spec's pseudocode as whole functions, read straight from it: DECODE_HEADER (R120), DECODE_AF (R140),
ASSEMBLE (R180) and FEED (R100). The machine runs the same decode one structure at a time; that it agrees with these
functions is stated in the obligations.
-/
namespace Sys2Proof.Machine

/-- An error as ASSEMBLE raises it: its kind and its field id (R187, R202). -/
structure Raised where
  kind : ErrorKind
  field : FieldId
deriving DecidableEq, Repr

/-- DECODE_HEADER (R120 to R124). -/
def decodeHeader (F : List Byte) : Except Raised Header :=
  if byteAt F 0 ≠ Config.syncByte then .error { kind := .syncError, field := .noField }
  else
    .ok
      { fields := headerFieldsOf (byteAt F 1) (byteAt F 2) (byteAt F 3)
        adaptationFieldControl := afControlOf (byteAt F 3) }

/-- A sub-field of R146: decoded if its flag is 1, skipped with the cursor unchanged if it is 0. -/
def decodeOptional {α : Type} (flag : Bool) (c : Nat) (reader : Nat → Except FieldId (α × Nat)) :
    Except FieldId (Option α × Nat) :=
  if flag then
    match reader c with
    | .ok r => .ok (some r.1, r.2)
    | .error f => .error f
  else .ok (none, c)

/-- One part of the decode after another: the first error ends it (R146, R204). -/
def andThen {α β : Type} (r : Except FieldId (α × Nat)) (k : α → Nat → Except FieldId β) : Except FieldId β :=
  match r with
  | .ok v => k v.1 v.2
  | .error f => .error f

/-- The extension part of R140 (R152 to R160): the record and the cursor after it. -/
def decodeExtension (F : List Byte) (afEnd c : Nat) : Except FieldId (AFExtension × Nat) :=
  andThen (readExtensionHeader F afEnd c) fun ex c =>
  andThen (decodeOptional (ex.2[7]) c (readLtw F afEnd)) fun ltw c =>
  andThen (decodeOptional (ex.2[6]) c (readPiecewiseRate F afEnd)) fun rate c =>
  andThen (decodeOptional (ex.2[5]) c (readSeamlessSplice F afEnd)) fun splice c =>
  .ok ({ length := ex.1, ltw := ltw, piecewiseRate := rate, seamlessSplice := splice }, c)

/-- The body part of R140, for 1 <= L <= 183: the AFBody and the final cursor (R143 to R161). -/
def decodeBody (F : List Byte) (afEnd : Nat) (a : Byte) : Except FieldId (AFBody × Nat) :=
  andThen (decodeOptional (a[4]) 6 (fun c => readClockRef F afEnd c .pcr)) fun pcr c =>
  andThen (decodeOptional (a[3]) c (fun c => readClockRef F afEnd c .opcr)) fun opcr c =>
  andThen (decodeOptional (a[2]) c (readSpliceCountdown F afEnd)) fun sc c =>
  andThen (decodeOptional (a[1]) c (readPrivateData F afEnd)) fun pd c =>
  andThen (decodeOptional (a[0]) c (decodeExtension F afEnd)) fun ext c =>
  .ok
    ({ discontinuityIndicator := a[7]
       randomAccessIndicator := a[6]
       elementaryStreamPriorityIndicator := a[5]
       pcrFlag := a[4]
       opcrFlag := a[3]
       splicingPointFlag := a[2]
       transportPrivateDataFlag := a[1]
       adaptationFieldExtensionFlag := a[0]
       pcr := pcr
       opcr := opcr
       spliceCountdown := sc
       privateData := pd
       extension := ext }, c)

/-- DECODE_AF (R140). -/
def decodeAf (F : List Byte) : Except FieldId AdaptationField :=
  let L := byteAt F 4
  if L.toNat = 0 then .ok { length := L, body := none }
  else if 183 < L.toNat then .error .afLength
  else andThen (decodeBody F (5 + L.toNat) (byteAt F 5)) fun body _ => .ok { length := L, body := some body }

/-- ASSEMBLE (R180). -/
def assemble (F : List Byte) : Except Raised TsPacket :=
  match decodeHeader F with
  | .error e => .error e
  | .ok h =>
    if h.adaptationFieldControl[1] then
      match decodeAf F with
      | .error f => .error { kind := .malformedFieldError, field := f }
      | .ok af => .ok (assembleRecord F h (some af))
    else .ok (assembleRecord F h none)

/-- What one whole command does: the records it emits, its status, and B after it (R100). -/
structure Transacted where
  records : List TsPacket
  status : Status
  buffer : List Byte
deriving DecidableEq, Repr

/-- The loop of R100 from cursor `cur` and frame index `j`, for at most `fuel` frames (R239 bounds them by the chunk's
length): R103, R104, and the abort of R105. -/
def stride (saved chunk : List Byte) : Nat → Nat → Nat → Transacted
  | 0, cur, _ => { records := [], status := .ok, buffer := slice chunk cur chunk.length }
  | fuel + 1, cur, j =>
    if chunk.length - cur ≥ 188 then
      match assemble (slice chunk cur (cur + 188)) with
      | .error e => { records := [], status := .err e.kind j e.field, buffer := saved }
      | .ok rec =>
        let rest := stride saved chunk fuel (cur + 188) (j + 1)
        { rest with records := rec :: rest.records }
    else { records := [], status := .ok, buffer := slice chunk cur chunk.length }

/-- FEED as a whole (R100). -/
def feedTransaction (buffer chunk : List Byte) : Transacted :=
  if buffer.length + chunk.length < 188 then { records := [], status := .ok, buffer := buffer ++ chunk }
  else
    match assemble (buffer ++ slice chunk 0 (188 - buffer.length)) with
    | .error e => { records := [], status := .err e.kind 0 e.field, buffer := buffer }
    | .ok rec =>
      let rest := stride buffer chunk chunk.length (188 - buffer.length) 1
      { rest with records := rec :: rest.records }

/-- A run of FEEDs of the chunks `cs`, one after the other, as far as the first that ends with an error (R106): all the
records, that status, and B at the end. -/
def feedChunks (buffer : List Byte) : List (List Byte) → Transacted
  | [] => { records := [], status := .ok, buffer := buffer }
  | c :: cs =>
    let t := feedTransaction buffer c
    match t.status with
    | .ok =>
      let rest := feedChunks t.buffer cs
      { rest with records := t.records ++ rest.records }
    | .err _ _ _ => t

/-- The state after a whole command: its records, then its one `Done` (R31). -/
def Transacted.apply (t : Transacted) (s : State) : State :=
  { s with buffer := t.buffer, output := s.output ++ t.records.map Event.packet ++ [.done t.status] }

end Sys2Proof.Machine
end

