-- ==== Sys2Proof/Safety.lean ====
section
/-!
DEFINITION. The terms claims are stated in: the form of the three byte spaces (20_memory.md R40), the records the spec
calls whole (10_state.md R25 to R29), the invariant of the machine, and runs of steps.
-/
namespace Sys2Proof.Machine

/-- The form of the byte spaces (R22, R40, R51): B holds at most 187 bytes; while a FEED runs, B0 is B (R100: B is
written at the FEED's end only), the frame has 188 bytes, and the chunk cursor lies in the chunk, a strided frame's
bytes being still ahead of it (R102, R103). -/
abbrev Memory.wf (s : State) : Prop :=
  s.buffer.length ≤ 187 ∧
  ∀ w ∈ s.feed,
    w.saved = s.buffer ∧ w.frame.length = 188 ∧ w.cur ≤ w.chunk.length ∧
    (w.frameIndex ≠ 0 → w.cur + 188 ≤ w.chunk.length)

/-- An AFBody whose options are there exactly when their flags are 1 (R27, R161), with values in range. -/
structure AFBody.Whole (b : AFBody) : Prop where
  pcr : b.pcr.isSome = b.pcrFlag
  opcr : b.opcr.isSome = b.opcrFlag
  spliceCountdown : b.spliceCountdown.isSome = b.splicingPointFlag
  privateData : b.privateData.isSome = b.transportPrivateDataFlag
  extension : b.extension.isSome = b.adaptationFieldExtensionFlag
  spliceRange : ∀ v ∈ b.spliceCountdown, -128 ≤ v ∧ v ≤ 127
  privateDataLength : ∀ d ∈ b.privateData, d.length ≤ 255

/-- The eight flag fields of an AFBody are the bits of the flags byte `a`, bit by bit (R64, R145; the places are the
spec's decision D5). -/
structure AFBody.FlagsAre (b : AFBody) (a : Byte) : Prop where
  discontinuityIndicator : b.discontinuityIndicator = a[7]
  randomAccessIndicator : b.randomAccessIndicator = a[6]
  elementaryStreamPriorityIndicator : b.elementaryStreamPriorityIndicator = a[5]
  pcrFlag : b.pcrFlag = a[4]
  opcrFlag : b.opcrFlag = a[3]
  splicingPointFlag : b.splicingPointFlag = a[2]
  transportPrivateDataFlag : b.transportPrivateDataFlag = a[1]
  adaptationFieldExtensionFlag : b.adaptationFieldExtensionFlag = a[0]

/-- An AdaptationField as one is emitted (R26). -/
structure AdaptationField.Whole (af : AdaptationField) : Prop where
  length : af.length.toNat ≤ 183
  empty : af.body = none ↔ af.length = 0#8
  body : ∀ b ∈ af.body, b.Whole

/-- A TsPacket as one is emitted (R25, R181, R188; 90_conflicts.md C4): its parts agree with its own raw frame. -/
structure TsPacket.Whole (r : TsPacket) : Prop where
  frameSize : r.rawFrame.length = 188
  sync : byteAt r.rawFrame 0 = 0x47#8
  adaptationField : r.adaptationField.isSome = r.adaptationFieldControl[1]
  adaptationFieldWhole : ∀ af ∈ r.adaptationField, af.Whole
  lengthByte : ∀ af ∈ r.adaptationField, af.length = byteAt r.rawFrame 4
  flags : ∀ af ∈ r.adaptationField, ∀ b ∈ af.body, b.FlagsAre (byteAt r.rawFrame 5)
  payload : r.payload.isSome = r.adaptationFieldControl[0]
  payloadView : ∀ p ∈ r.payload, p.offset + p.length = 188 ∧
    p.offset = (match r.adaptationField with | some af => 5 + af.length.toNat | none => 5)

/-- The decode of an adaptation field's body under way on frame `F` (R143, R145, R146, R155): all but the extension. -/
structure BodyWork.Inv (F : List Byte) (b : BodyWork) : Prop where
  lengthByte : b.length = byteAt F 4
  flagsByte : b.flags = byteAt F 5
  lengthPos : 1 ≤ b.length.toNat
  lengthMax : b.length.toNat ≤ 183
  region : b.afEnd = 5 + b.length.toNat
  cursorMin : 6 ≤ b.cursor
  cursorMax : b.cursor ≤ b.afEnd
  todo : ∀ k, b.todo.getLsbD k = true → b.flags.getLsbD k = true
  pcr : b.pcr.isSome = (b.flags[4] && !b.todo[4])
  opcr : b.opcr.isSome = (b.flags[3] && !b.todo[3])
  spliceCountdown : b.spliceCountdown.isSome = (b.flags[2] && !b.todo[2])
  privateData : b.privateData.isSome = (b.flags[1] && !b.todo[1])
  spliceRange : ∀ v ∈ b.spliceCountdown, -128 ≤ v ∧ v ≤ 127
  privateDataLength : ∀ d ∈ b.privateData, d.length ≤ 255

/-- Where the decode of frame `F` stands, consistently with `F` (R120, R140, R180). -/
def Stage.Inv (F : List Byte) : Stage → Prop
  | .header => True
  | .afLength h => decodeHeader F = .ok h ∧ h.adaptationFieldControl[1] = true
  | .subfields h b =>
    decodeHeader F = .ok h ∧ h.adaptationFieldControl[1] = true ∧ b.Inv F ∧
      b.extension.isSome = (b.flags[0] && !b.todo[0])
  | .extension h b _ =>
    decodeHeader F = .ok h ∧ h.adaptationFieldControl[1] = true ∧ b.Inv F ∧
      b.flags[0] = true ∧ b.todo[0] = false
  | .assembled rec => rec.Whole ∧ rec.rawFrame = F

/-- The invariant of the machine: the byte spaces have their form, the decode under way agrees with its frame, and
every record ever emitted is whole. -/
structure State.Inv (s : State) : Prop where
  memory : Memory.wf s
  stage : ∀ w ∈ s.feed, w.stage.Inv w.frame
  records : ∀ rec, Event.packet rec ∈ s.output → rec.Whole

/-- The format of the words a stage decodes; none where the record is complete (R75). -/
def Stage.format : Stage → Option Format
  | .header => some .tsHeader32
  | .afLength _ => some .afLength8
  | .subfields _ _ => some .afFlags8
  | .extension _ _ _ => some .afextFlags8
  | .assembled _ => none

/-- `F[i]` as a natural. -/
def byteVal (F : List Byte) (i : Nat) : Nat := (byteAt F i).toNat

/-- A `Done` event (R31). -/
def Event.isDone : Event → Bool
  | .done _ => true
  | .packet _ => false

/-- `n` steps of the machine, stopping at the first stop. -/
def run (n : Nat) (s : State) : Host.Outcome State Fault Refusal := Host.Core.run Sys2Proof.core n s

end Sys2Proof.Machine
end

