-- ==== Sys2Proof/Certificates/Slice0/Obligations.lean ====
section
/-!
DEFINITION. The statements for the provers. Each docstring names the rule of spec/ it formalises. A FEED's pseudocode
runs one structure a step here (log 1), so a statement about a whole command is about a run. Where the rule is the
spec's own decision or derivation, the docstring names it: D<n> is a row of 92_eei_decisions.md.
-/
open Sys2Proof Sys2Proof.Machine

/-! ### Encoding -/

/-- Words written out bit by bit from R61 (the header example of R62, HD-2, HD-3, PA-1), R63, R64, R68 and R90. -/
def Obligations.WrittenOutWordsDecode : Prop :=
  decode .tsHeader32 [0x47#8, 0x41#8, 0x00#8, 0x10#8] =
      .ok (.pktPayload ⟨false, true, false, 0x100#13, 0#2, 0#4⟩) ∧
  decode .tsHeader32 [0x47#8, 0xFF#8, 0xFF#8, 0xFF#8] =
      .ok (.pktAfPayload ⟨true, true, true, 8191#13, 3#2, 15#4⟩) ∧
  decode .tsHeader32 [0x47#8, 0xA0#8, 0x00#8, 0x2A#8] =
      .ok (.pktAf ⟨true, false, true, 0#13, 0#2, 10#4⟩) ∧
  decode .tsHeader32 [0x47#8, 0x00#8, 0x21#8, 0x00#8] =
      .ok (.pktNone ⟨false, false, false, 33#13, 0#2, 0#4⟩) ∧
  decode .tsHeader32 [0x46#8, 0x41#8, 0x00#8, 0x10#8] = .error .syncMismatch ∧
  decode .afLength8 [0x00#8] = .ok .afEmpty ∧
  decode .afLength8 [0xB7#8] = .ok (.afBody 0xB7#8) ∧
  decode .afFlags8 [0x1F#8] = .ok .afPcr ∧
  decode .afFlags8 [0x0F#8] = .ok .afOpcr ∧
  decode .afFlags8 [0x80#8] = .error .nothingSelected ∧
  decode .afextFlags8 [0x60#8] = .ok .extPiecewiseRate ∧
  decode .hostCmd [0x01#8, 0x47#8] = .ok (.feed [0x47#8])

/-- Decoding the encoding of any well-formed instruction, in its format, gives it back (R61, R63, R64, R68, R90). -/
def Obligations.DecodeOfEncodeIsTheInstruction : Prop :=
  ∀ i : Instr, i.wellFormed = true → decode i.format (encode i) = .ok i

/-- Every header word with the sync byte decodes, and to an instruction that encodes to exactly that word, so no bit
of it is dropped (R61, R75, R76). -/
def Obligations.EveryHeaderWordDecodesAndReencodes : Prop :=
  ∀ b1 b2 b3 : Byte, ∃ i : Instr,
    decode .tsHeader32 [0x47#8, b1, b2, b3] = .ok i ∧ i.wellFormed = true ∧ i.format = .tsHeader32 ∧
      encode i = [0x47#8, b1, b2, b3]

/-- The header fields as numbers (R122 and R124, whose places are D4's, and R123), and no header value but the sync
byte is rejected. -/
def Obligations.HeaderFieldsAreTheNumbersOfTheirBits : Prop :=
  ∀ F : List Byte, byteAt F 0 = 0x47#8 → ∃ h : Header,
    decodeHeader F = .ok h ∧
    h.fields.pid.toNat = (byteVal F 1 % 32) * 256 + byteVal F 2 ∧
    h.fields.transportErrorIndicator.toNat = byteVal F 1 / 128 ∧
    h.fields.payloadUnitStartIndicator.toNat = byteVal F 1 / 64 % 2 ∧
    h.fields.transportPriority.toNat = byteVal F 1 / 32 % 2 ∧
    h.fields.transportScramblingControl.toNat = byteVal F 3 / 64 ∧
    h.adaptationFieldControl.toNat = byteVal F 3 / 16 % 4 ∧
    h.fields.continuityCounter.toNat = byteVal F 3 % 16

/-- The packet kind a header word selects agrees with the opcode table's mask and match (R75). -/
def Obligations.DecoderAgreesWithTheOpcodeTable : Prop :=
  (∀ (b0 b1 b2 b3 : Byte) (i : Instr), decode .tsHeader32 [b0, b1, b2, b3] = .ok i →
    (b0 ++ b1 ++ b2 ++ b3 : BitVec 32) &&& BitVec.ofNat 32 i.tableMask = BitVec.ofNat 32 i.tableMatch) ∧
  (∀ (fmt : Format) (b : Byte) (i : Instr), fmt ≠ .tsHeader32 → decode fmt [b] = .ok i →
    b &&& BitVec.ofNat 8 i.tableMask = BitVec.ofNat 8 i.tableMatch)

/-! ### Steps -/

/-- A step runs the instruction its word decodes to: between commands the next command, taken off the queue; in a FEED
the structure the frame selects where the decode stands (R46, R75, R180, R140). -/
def Obligations.StepRunsTheDecodedInstruction : Prop :=
  (∀ (s : State) (cmd : HostCommand) (rest : List HostCommand) (i : Instr),
    s.feed = none → s.pending = cmd :: rest → decode .hostCmd (cmd.code :: cmd.operand) = .ok i →
      step s = exec i { s with pending := rest }) ∧
  (∀ (s : State) (w : FeedWork) (i : Instr), s.feed = some w → w.stage = .header →
    decode .tsHeader32 (slice w.frame 0 4) = .ok i → step s = exec i s) ∧
  (∀ (s : State) (w : FeedWork) (h : Header) (i : Instr), s.feed = some w → w.stage = .afLength h →
    decode .afLength8 (slice w.frame 4 5) = .ok i → step s = exec i s) ∧
  (∀ (s : State) (w : FeedWork) (h : Header) (b : BodyWork) (i : Instr),
    s.feed = some w → w.stage = .subfields h b → decode .afFlags8 [b.todo] = .ok i → step s = exec i s) ∧
  (∀ (s : State) (w : FeedWork) (h : Header) (b : BodyWork) (x : ExtWork) (i : Instr),
    s.feed = some w → w.stage = .extension h b x → decode .afextFlags8 [x.todo] = .ok i → step s = exec i s)

/-- R213 (D28): with no command, an idle block holds B and emits nothing. That idling is a step that leaves the state
as it is is the model's choice (log 9). -/
def Obligations.IdleBlockDoesNothing : Prop :=
  ∀ s : State, s.feed = none → s.pending = [] → step s = .next s

/-- R90 (D2): a code other than 0x00 and 0x01 is refused, so no state comes after it (log 8). -/
def Obligations.UnknownCommandIsRefused : Prop :=
  ∀ (s : State) (cmd : HostCommand) (rest : List HostCommand),
    s.feed = none → s.pending = cmd :: rest → cmd.code ≠ 0x00#8 → cmd.code ≠ 0x01#8 →
      step s = .refused (.unknownCommand cmd.code)

/-- R233 (D1): a command executed while another runs has no meaning, and is refused (log 7); and a decode structure
executed where the block does not stand at it faults (the model's own choice, log 6). -/
def Obligations.OutOfPlaceInstructionsStop : Prop :=
  (∀ (s : State) (w : FeedWork) (chunk : List Byte), s.feed = some w →
    exec .reset s = .refused .overlappingCommand ∧ exec (.feed chunk) s = .refused .overlappingCommand) ∧
  (∀ (s : State) (i : Instr), i.format ≠ .hostCmd → (∀ w, s.feed = some w → w.stage.format ≠ some i.format) →
    exec i s = .fault .structureNotSelected)

/-- R230 (D3): at power-on B is empty, and no FEED is under way. -/
def Obligations.PowerOnStateIsEmpty : Prop :=
  State.reset.buffer = [] ∧ State.reset.feed = none

/-- The invariant holds at reset (R33, R22). -/
def Obligations.ResetSatisfiesTheInvariant : Prop := State.reset.Inv

/-- HEADLINE. Every step keeps the invariant: B has at most 187 bytes (R22), the frame has 188 (R40), the cursor stays
in the AF region (R155), the options agree with their flags (R161), and every record ever output is whole (R25 to R27,
R181, R188). -/
def Obligations.EveryStepKeepsTheInvariant : Prop :=
  ∀ s t : State, s.Inv → step s = .next t → t.Inv

/-- From a state of the invariant a step never faults, and refuses only an unknown command code (R90, R200). -/
def Obligations.StepsStopOnlyForUnknownCommands : Prop :=
  ∀ s : State, s.Inv →
    (∃ t, step s = .next t) ∨
    (∃ cmd rest, s.feed = none ∧ s.pending = cmd :: rest ∧ cmd.code ≠ 0x00#8 ∧ cmd.code ≠ 0x01#8 ∧
      step s = .refused (.unknownCommand cmd.code))

/-! ### Host commands -/

/-- R107 (D3): RESET empties B, as at power-on, and ends with `Done(OK)`; nothing else changes, and no event is taken
back (R231). -/
def Obligations.ResetCommandEmptiesTheBuffer : Prop :=
  ∀ s : State, s.feed = none →
    exec .reset s = .next { s with buffer := [], output := s.output ++ [.done .ok] }

/-- R101 and R102: FEED's filling case whole, after which B has at most 187 bytes; and its first frame, frame 0, cut
from B and the chunk, of exactly 188 bytes. B has at most 187 bytes before (R22). -/
def Obligations.FeedFillsOrCutsTheFirstFrame : Prop :=
  ∀ (s : State) (chunk : List Byte), s.feed = none → s.buffer.length ≤ 187 →
    (s.buffer.length + chunk.length < 188 →
      exec (.feed chunk) s = .next { s with buffer := s.buffer ++ chunk, output := s.output ++ [.done .ok] } ∧
      (s.buffer ++ chunk).length ≤ 187) ∧
    (188 ≤ s.buffer.length + chunk.length →
      exec (.feed chunk) s = .next
        { s with
          feed := some
            { saved := s.buffer, chunk := chunk, cur := 188 - s.buffer.length, frameIndex := 0,
              frame := s.buffer ++ chunk.take (188 - s.buffer.length), stage := .header } } ∧
      (s.buffer ++ chunk.take (188 - s.buffer.length)).length = 188)

/-- R103, R104, R105: once a frame's record is formed, one step emits it, and either cuts the next 188 bytes of the
chunk or makes the remainder B and ends with `Done(OK)`. `cur` is where the frame after this one starts; that R103's
move of the chunk cursor happens in this step is the model's choice (log 15). -/
def Obligations.EmittedRecordThenStrideOrRemainder : Prop :=
  ∀ (s : State) (w : FeedWork) (rec : TsPacket) (cur : Nat), s.feed = some w → w.stage = .assembled rec →
    (w.frameIndex = 0 → cur = w.cur) → (w.frameIndex ≠ 0 → cur = w.cur + 188) →
    (188 ≤ w.chunk.length - cur →
      step s = .next
        { s with
          output := s.output ++ [.packet rec]
          feed := some { w with cur := cur, frameIndex := w.frameIndex + 1,
                                frame := (w.chunk.drop cur).take 188, stage := .header } }) ∧
    (w.chunk.length - cur < 188 →
      step s = .next
        { s with buffer := w.chunk.drop cur, feed := none, output := s.output ++ [.packet rec, .done .ok] })

/-! ### Packet kinds -/

/-- R183 and R184: PKT_NONE and PKT_PAYLOAD form the whole record at once: the header fields, no adaptation field, no
payload or payload {5, 183}, and the raw frame. Nothing else changes. -/
def Obligations.PktNoneAndPktPayloadFormTheRecord : Prop :=
  ∀ (s : State) (w : FeedWork) (h : HeaderFields), s.feed = some w → w.stage = .header →
    (exec (.pktNone h) s = .next
      { s with feed := some { w with
          stage := .assembled
            { transportErrorIndicator := h.transportErrorIndicator
              payloadUnitStartIndicator := h.payloadUnitStartIndicator
              transportPriority := h.transportPriority
              pid := h.pid
              transportScramblingControl := h.transportScramblingControl
              adaptationFieldControl := 0b00#2
              continuityCounter := h.continuityCounter
              adaptationField := none
              payload := none
              rawFrame := w.frame } } }) ∧
    (exec (.pktPayload h) s = .next
      { s with feed := some { w with
          stage := .assembled
            { transportErrorIndicator := h.transportErrorIndicator
              payloadUnitStartIndicator := h.payloadUnitStartIndicator
              transportPriority := h.transportPriority
              pid := h.pid
              transportScramblingControl := h.transportScramblingControl
              adaptationFieldControl := 0b01#2
              continuityCounter := h.continuityCounter
              adaptationField := none
              payload := some { offset := 5, length := 183 }
              rawFrame := w.frame } } })

/-- PKT_AF and PKT_AF_PAYLOAD hold the header fields and go on to DECODE_AF (R180, R185, R186). Nothing else changes.
-/
def Obligations.PktAfAndPktAfPayloadGoOnToTheLengthByte : Prop :=
  ∀ (s : State) (w : FeedWork) (h : HeaderFields), s.feed = some w → w.stage = .header →
    exec (.pktAf h) s = .next
      { s with feed := some { w with
          stage := .afLength { fields := h, adaptationFieldControl := 0b10#2 } } } ∧
        exec (.pktAfPayload h) s = .next
          { s with feed := some { w with stage := .afLength { fields := h, adaptationFieldControl := 0b11#2 } } }

/-! ### Adaptation field -/

/-- R141 with R181: a length byte of 0 selects AF_EMPTY, which gives `{length: 0, body: none}`, so the record is formed, with its payload, if present,
at 5. Nothing else changes. -/
def Obligations.AfEmptyFormsTheRecordWithoutBody : Prop :=
  decode .afLength8 [0x00#8] = .ok .afEmpty ∧ ∀ (s : State) (w : FeedWork) (h : Header), s.feed = some w → w.stage = .afLength h →
    exec .afEmpty s = .next
      { s with feed := some { w with
          stage := .assembled
            { transportErrorIndicator := h.fields.transportErrorIndicator
              payloadUnitStartIndicator := h.fields.payloadUnitStartIndicator
              transportPriority := h.fields.transportPriority
              pid := h.fields.pid
              transportScramblingControl := h.fields.transportScramblingControl
              adaptationFieldControl := h.adaptationFieldControl
              continuityCounter := h.fields.continuityCounter
              adaptationField := some { length := 0#8, body := none }
              payload := if h.adaptationFieldControl[0] then some { offset := 5, length := 183 } else none
              rawFrame := w.frame } } }

/-- R142 (D8), R143, R145: AF_BODY with length 1 to 183 sets the region and the cursor and reads the flags byte F[5];
a length of 184 or more raises MalformedFieldError(AF_LENGTH). -/
def Obligations.AfBodySetsTheRegionOrRaises : Prop :=
  ∀ (s : State) (w : FeedWork) (h : Header) (length : Byte), s.feed = some w → w.stage = .afLength h →
    (length.toNat ≤ 183 → 6 ≤ w.frame.length →
      exec (.afBody length) s = .next
        { s with feed := some { w with
            stage := .subfields h
              { length := length, afEnd := 5 + length.toNat, cursor := 6,
                flags := byteAt w.frame 5, todo := byteAt w.frame 5,
                pcr := none, opcr := none, spliceCountdown := none, privateData := none, extension := none } } }) ∧
    (184 ≤ length.toNat →
      exec (.afBody length) s = .next
        { s with buffer := w.saved, feed := none,
                 output := s.output ++ [.done (.err .malformedFieldError w.frameIndex .afLength)] })

/-- R65 (with R147, R148, R149): AF_PCR and AF_OPCR, where 6 bytes fit: base = W*2 + F[c+4][7] and extension =
F[c+4][0]*256 + F[c+5], and the cursor moves by 6. That neither is cut off by its field is R147's derivation. Nothing
else changes, but that the flag is marked considered (`todo`, log 1). -/
def Obligations.PcrAndOpcrDecodeTheirClockReference : Prop :=
  ∀ (s : State) (w : FeedWork) (h : Header) (b : BodyWork), s.feed = some w → w.stage = .subfields h b →
    b.cursor + 6 ≤ b.afEnd → b.afEnd ≤ w.frame.length →
    ∃ v : ClockRef,
      v.base.toNat =
        (byteVal w.frame b.cursor * 2 ^ 24 + byteVal w.frame (b.cursor + 1) * 2 ^ 16 +
          byteVal w.frame (b.cursor + 2) * 2 ^ 8 + byteVal w.frame (b.cursor + 3)) * 2 +
          byteVal w.frame (b.cursor + 4) / 128 ∧
      v.extension.toNat = byteVal w.frame (b.cursor + 4) % 2 * 256 + byteVal w.frame (b.cursor + 5) ∧
      exec .afPcr s = .next
        { s with feed := some { w with
            stage := .subfields h
              { b with pcr := some v, cursor := b.cursor + 6, todo := b.todo &&& 0xEF#8 } } } ∧
      exec .afOpcr s = .next
        { s with feed := some { w with
            stage := .subfields h
              { b with opcr := some v, cursor := b.cursor + 6, todo := b.todo &&& 0xF7#8 } } }

/-- R150 (D20): AF_SPLICE_COUNTDOWN gives F[c] as an 8-bit two's-complement number, and the cursor moves by 1. -/
def Obligations.SpliceCountdownIsSigned : Prop :=
  ∀ (s : State) (w : FeedWork) (h : Header) (b : BodyWork), s.feed = some w → w.stage = .subfields h b →
    b.cursor + 1 ≤ b.afEnd → b.afEnd ≤ w.frame.length →
    exec .afSpliceCountdown s = .next
      { s with feed := some { w with
          stage := .subfields h
            { b with spliceCountdown := some (byteAt w.frame b.cursor).toInt, cursor := b.cursor + 1,
                     todo := b.todo &&& 0xFB#8 } } }

/-- R67, R151: AF_PRIVATE_DATA gives the P bytes after the length byte P, byte for byte, even if P = 0, and the cursor
moves by 1 + P. -/
def Obligations.PrivateDataIsTheDeclaredBytes : Prop :=
  ∀ (s : State) (w : FeedWork) (h : Header) (b : BodyWork), s.feed = some w → w.stage = .subfields h b →
    b.cursor + 1 + byteVal w.frame b.cursor ≤ b.afEnd → b.afEnd ≤ w.frame.length →
    ∃ d : List Byte,
      d.length = byteVal w.frame b.cursor ∧
      (∀ k, k < d.length → byteAt d k = byteAt w.frame (b.cursor + 1 + k)) ∧
      exec .afPrivateData s = .next
        { s with feed := some { w with
            stage := .subfields h
              { b with privateData := some d, cursor := b.cursor + 1 + d.length, todo := b.todo &&& 0xFD#8 } } }

/-- R152, R153, R154 (D10): AF_EXTENSION reads E and X, whatever E is, and goes on to the sub-fields X selects. -/
def Obligations.ExtensionReadsItsLengthAndFlags : Prop :=
  ∀ (s : State) (w : FeedWork) (h : Header) (b : BodyWork), s.feed = some w → w.stage = .subfields h b →
    b.cursor + 2 ≤ b.afEnd → b.afEnd ≤ w.frame.length →
    exec .afExtension s = .next
      { s with feed := some { w with
          stage := .extension h
            { b with cursor := b.cursor + 2, todo := b.todo &&& 0xFE#8 }
            { length := byteAt w.frame b.cursor, todo := byteAt w.frame (b.cursor + 1),
              ltw := none, piecewiseRate := none, seamlessSplice := none } } }

/-- R69, R157: EXT_LTW. The offset is not cut off by its 15 bits. -/
def Obligations.LtwDecodesValidAndOffset : Prop :=
  ∀ (s : State) (w : FeedWork) (h : Header) (b : BodyWork) (x : ExtWork),
    s.feed = some w → w.stage = .extension h b x → b.cursor + 2 ≤ b.afEnd → b.afEnd ≤ w.frame.length →
    ∃ v : Ltw,
      v.valid.toNat = byteVal w.frame b.cursor / 128 ∧
      v.offset.toNat = byteVal w.frame b.cursor % 128 * 256 + byteVal w.frame (b.cursor + 1) ∧
      exec .extLtw s = .next
        { s with feed := some { w with
            stage := .extension h { b with cursor := b.cursor + 2 }
              { x with ltw := some v, todo := x.todo &&& 0x7F#8 } } }

/-- R70, R158: EXT_PIECEWISE_RATE. The top two bits of the first byte are not read. -/
def Obligations.PiecewiseRateDecodesTwentyTwoBits : Prop :=
  ∀ (s : State) (w : FeedWork) (h : Header) (b : BodyWork) (x : ExtWork),
    s.feed = some w → w.stage = .extension h b x → b.cursor + 3 ≤ b.afEnd → b.afEnd ≤ w.frame.length →
    ∃ v : BitVec 22,
      v.toNat = byteVal w.frame b.cursor % 64 * 65536 + byteVal w.frame (b.cursor + 1) * 256 +
        byteVal w.frame (b.cursor + 2) ∧
      exec .extPiecewiseRate s = .next
        { s with feed := some { w with
            stage := .extension h { b with cursor := b.cursor + 3 }
              { x with piecewiseRate := some v, todo := x.todo &&& 0xBF#8 } } }

/-- R71, R159 (D6): EXT_SEAMLESS_SPLICE. The sum is the source's formula, with its carry (90_conflicts.md C7), and is
not cut off by its 33 bits. -/
def Obligations.SeamlessSpliceDecodesTheSourceFormula : Prop :=
  ∀ (s : State) (w : FeedWork) (h : Header) (b : BodyWork) (x : ExtWork),
    s.feed = some w → w.stage = .extension h b x → b.cursor + 5 ≤ b.afEnd → b.afEnd ≤ w.frame.length →
    ∃ v : SeamlessSplice,
      v.spliceType.toNat = byteVal w.frame b.cursor / 16 ∧
      v.dtsNextAu.toNat =
        byteVal w.frame b.cursor % 8 * 2 ^ 29 + byteVal w.frame (b.cursor + 1) * 2 ^ 22 +
          byteVal w.frame (b.cursor + 2) / 2 * 2 ^ 15 + byteVal w.frame (b.cursor + 3) * 2 ^ 7 +
          byteVal w.frame (b.cursor + 4) / 2 ∧
      v.dtsNextAu.toNat ≤ 4831838207 ∧
      exec .extSeamlessSplice s = .next
        { s with feed := some { w with
            stage := .extension h { b with cursor := b.cursor + 5 }
              { x with seamlessSplice := some v, todo := x.todo &&& 0xDF#8 } } }

/-- R144 (D9) for every sub-field, with the field ids of R202 (D13): where a part does not fit in the AF region, the
structure raises MalformedFieldError with that part's field id, with the effect of R205 (D11). -/
def Obligations.PartsPastTheRegionRaiseTheirField : Prop :=
  ∀ (s : State) (w : FeedWork) (h : Header) (b : BodyWork) (x : ExtWork) (raised : FieldId → State),
    s.feed = some w → b.afEnd ≤ w.frame.length →
    (∀ f, raised f = { s with buffer := w.saved, feed := none,
                              output := s.output ++ [.done (.err .malformedFieldError w.frameIndex f)] }) →
    (w.stage = .subfields h b →
      (b.afEnd < b.cursor + 6 → exec .afPcr s = .next (raised .pcr)) ∧
      (b.afEnd < b.cursor + 6 → exec .afOpcr s = .next (raised .opcr)) ∧
      (b.afEnd < b.cursor + 1 → exec .afSpliceCountdown s = .next (raised .spliceCountdown)) ∧
      (b.afEnd < b.cursor + 1 → exec .afPrivateData s = .next (raised .privateDataLength)) ∧
      (b.cursor + 1 ≤ b.afEnd → b.afEnd < b.cursor + 1 + byteVal w.frame b.cursor →
        exec .afPrivateData s = .next (raised .privateData)) ∧
      (b.afEnd < b.cursor + 1 → exec .afExtension s = .next (raised .extensionLength)) ∧
      (b.afEnd = b.cursor + 1 → exec .afExtension s = .next (raised .extensionFlags))) ∧
    (w.stage = .extension h b x →
      (b.afEnd < b.cursor + 2 → exec .extLtw s = .next (raised .ltw)) ∧
      (b.afEnd < b.cursor + 3 → exec .extPiecewiseRate s = .next (raised .piecewiseRate)) ∧
      (b.afEnd < b.cursor + 5 → exec .extSeamlessSplice s = .next (raised .seamlessSplice)))

/-- R153, R154 (D10), R160: the extension record holds E as read, and each option is there exactly when its flag bit
of X is 1; the cursor moves by the widths of R73 and not by E. -/
def Obligations.ExtensionOptionsFollowTheirFlags : Prop :=
  ∀ (F : List Byte) (afEnd c c' : Nat) (e : AFExtension), decodeExtension F afEnd c = .ok (e, c') →
    e.length = byteAt F c ∧
    e.ltw.isSome = (byteAt F (c + 1))[7] ∧
    e.piecewiseRate.isSome = (byteAt F (c + 1))[6] ∧
    e.seamlessSplice.isSome = (byteAt F (c + 1))[5] ∧
    c' = c + 2 + (if (byteAt F (c + 1))[7] then 2 else 0) + (if (byteAt F (c + 1))[6] then 3 else 0) +
      (if (byteAt F (c + 1))[5] then 5 else 0)

/-- R155, which the spec derives from R144: the final cursor of a decoded body lies in 6 .. af_end, for every region
with room for the flags byte. -/
def Obligations.DecodedBodyStaysInItsRegion : Prop :=
  ∀ (F : List Byte) (afEnd : Nat) (a : Byte) (body : AFBody) (c : Nat),
    6 ≤ afEnd → decodeBody F afEnd a = .ok (body, c) → 6 ≤ c ∧ c ≤ afEnd

/-- R156 (D18): the bytes from the final cursor on are not read, whatever they are. -/
def Obligations.UnreadTailChangesNothing : Prop :=
  ∀ (F F' : List Byte) (afEnd : Nat) (a : Byte) (body : AFBody) (c : Nat),
    F'.length = F.length → (∀ i, i < c → byteAt F' i = byteAt F i) →
    decodeBody F afEnd a = .ok (body, c) → decodeBody F' afEnd a = .ok (body, c)

/-- R162, which the spec derives from R140: DECODE_AF reads only F[4] to F[af_end - 1]. -/
def Obligations.AfDecodeReadsOnlyItsRegion : Prop :=
  ∀ F F' : List Byte, F.length = 188 → F'.length = 188 →
    (∀ i, 4 ≤ i → i < 5 + byteVal F 4 → byteAt F' i = byteAt F i) →
    decodeAf F' = decodeAf F

/-- R78, which the spec derives: the bits the decode ignores. In the value formulas, b4[6:1] of a clock reference,
b0[7:6] of a piecewise rate, and b0[3], b2[0], b4[0] of a seamless splice. In the extension flags byte, X[4:0] (R68):
they select nothing and change nothing of the extension. -/
def Obligations.IgnoredBitsChangeNoValue : Prop :=
  ∀ (F F' : List Byte) (c : Nat), F'.length = F.length →
    ((∀ i, i ≠ c + 4 → byteAt F' i = byteAt F i) →
      byteAt F' (c + 4) &&& 0x81#8 = byteAt F (c + 4) &&& 0x81#8 → clockRef F' c = clockRef F c) ∧
    ((∀ i, i ≠ c → byteAt F' i = byteAt F i) → byteAt F' c &&& 0x3F#8 = byteAt F c &&& 0x3F#8 →
      piecewiseRateValue F' c = piecewiseRateValue F c) ∧
    ((∀ i, i ≠ c → i ≠ c + 2 → i ≠ c + 4 → byteAt F' i = byteAt F i) →
      byteAt F' c &&& 0xF7#8 = byteAt F c &&& 0xF7#8 →
      byteAt F' (c + 2) &&& 0xFE#8 = byteAt F (c + 2) &&& 0xFE#8 →
      byteAt F' (c + 4) &&& 0xFE#8 = byteAt F (c + 4) &&& 0xFE#8 →
      seamlessSpliceValue F' c = seamlessSpliceValue F c) ∧
    (∀ x y : Byte, x &&& 0xE0#8 = y &&& 0xE0#8 → decode .afextFlags8 [x] = decode .afextFlags8 [y]) ∧
    (∀ afEnd, (∀ i, i ≠ c + 1 → byteAt F' i = byteAt F i) →
      byteAt F' (c + 1) &&& 0xE0#8 = byteAt F (c + 1) &&& 0xE0#8 →
      decodeExtension F' afEnd c = decodeExtension F afEnd c)

/-! ### ASSEMBLE -/

/-- R121, R142 (D8), R204 (D23): the sync check comes before every other check, and the length bound before every
sub-field's. -/
def Obligations.SyncThenLengthAreCheckedFirst : Prop :=
  ∀ F : List Byte,
    (byteAt F 0 ≠ 0x47#8 → assemble F = .error { kind := .syncError, field := .noField }) ∧
    (byteAt F 0 = 0x47#8 → byteVal F 3 / 32 % 2 = 1 → 184 ≤ byteVal F 4 →
      assemble F = .error { kind := .malformedFieldError, field := .afLength })

/-- R182: without an adaptation field the frame always gives a record, with its payload, if present, at 5, and F[4] is
in nothing but raw_frame. -/
def Obligations.WithoutAdaptationFieldByteFourIsIgnored : Prop :=
  ∀ (F : List Byte) (v : Byte), F.length = 188 → byteAt F 0 = 0x47#8 → byteVal F 3 / 32 % 2 = 0 →
    ∃ r : TsPacket, assemble F = .ok r ∧ r.adaptationField = none ∧
      r.payload = (if byteVal F 3 / 16 % 2 = 1 then some { offset := 5, length := 183 } else none) ∧
      assemble (F.set 4 v) = .ok { r with rawFrame := F.set 4 v }

/-- R180, R183, R184, R185, R186: what each packet kind gives, for every header. -/
def Obligations.PacketKindsGiveTheirRecords : Prop :=
  ∀ (F : List Byte) (h : Header), decodeHeader F = .ok h →
    (h.adaptationFieldControl = 0b00#2 → ∃ r, assemble F = .ok r ∧ r.adaptationField = none ∧ r.payload = none) ∧
    (h.adaptationFieldControl = 0b01#2 → ∃ r, assemble F = .ok r ∧ r.adaptationField = none ∧
      r.payload = some { offset := 5, length := 183 }) ∧
    (∀ af, decodeAf F = .ok af →
      (h.adaptationFieldControl = 0b10#2 → ∃ r, assemble F = .ok r ∧ r.adaptationField = some af ∧
        r.payload = none) ∧
      (h.adaptationFieldControl = 0b11#2 → ∃ r, assemble F = .ok r ∧ r.adaptationField = some af ∧
        r.payload = some { offset := 5 + af.length.toNat, length := 183 - af.length.toNat })) ∧
    (∀ f, decodeAf F = .error f → h.adaptationFieldControl[1] = true →
      assemble F = .error { kind := .malformedFieldError, field := f }) ∧
    (∀ r, assemble F = .ok r →
      r.transportErrorIndicator = h.fields.transportErrorIndicator ∧
      r.payloadUnitStartIndicator = h.fields.payloadUnitStartIndicator ∧
      r.transportPriority = h.fields.transportPriority ∧ r.pid = h.fields.pid ∧
      r.transportScramblingControl = h.fields.transportScramblingControl ∧
      r.adaptationFieldControl = h.adaptationFieldControl ∧
      r.continuityCounter = h.fields.continuityCounter ∧ r.rawFrame = F)

/-- R25, R26, R27, R161, R181, R188: every record ASSEMBLE returns is whole and holds its frame; its length is F[4] and
its eight flag fields are the bits of F[5] (R64, R145; their places are D5's). And so for every flags byte A: the eight
flag fields of a decoded body are A[7] to A[0]. -/
def Obligations.AssembledRecordsAreWhole : Prop :=
  (∀ (F : List Byte) (r : TsPacket), F.length = 188 → assemble F = .ok r → r.Whole ∧ r.rawFrame = F) ∧
  (∀ (F : List Byte) (afEnd : Nat) (a : Byte) (body : AFBody) (c : Nat),
    decodeBody F afEnd a = .ok (body, c) →
      body.discontinuityIndicator = a[7] ∧ body.randomAccessIndicator = a[6] ∧
      body.elementaryStreamPriorityIndicator = a[5] ∧ body.pcrFlag = a[4] ∧ body.opcrFlag = a[3] ∧
      body.splicingPointFlag = a[2] ∧ body.transportPrivateDataFlag = a[1] ∧
      body.adaptationFieldExtensionFlag = a[0])

/-- HEADLINE. The machine's decode of a frame, structure by structure, is ASSEMBLE of R180: from a cut frame's header
it comes, within 12 steps, to exactly that record, or to exactly the effect of that error (R187, R205), and changes
nothing else. -/
def Obligations.FrameDecodeIsAssemble : Prop :=
  ∀ (s : State) (w : FeedWork), s.feed = some w → w.stage = .header → w.frame.length = 188 →
    (∀ r, assemble w.frame = .ok r →
      ∃ n, n ≤ 12 ∧ run n s = .next { s with feed := some { w with stage := .assembled r } }) ∧
    (∀ e, assemble w.frame = .error e →
      ∃ n, n ≤ 12 ∧ run n s = .next
        { s with buffer := w.saved, feed := none,
                 output := s.output ++ [.done (.err e.kind w.frameIndex e.field)] })

/-! ### FEED as a whole -/

/-- HEADLINE. A FEED is R100's pseudocode: within a bound set by the number of frames (R239) the machine comes to the
state in which its records, its one `Done` and its B are exactly those of the pseudocode. -/
def Obligations.FeedRunsToItsTransaction : Prop :=
  ∀ (s : State) (chunk : List Byte) (rest : List HostCommand),
    s.feed = none → s.buffer.length ≤ 187 → s.pending = { code := 0x01#8, operand := chunk } :: rest →
    ∃ n, n ≤ 1 + 13 * ((s.buffer.length + chunk.length) / 188) ∧
      run n s = .next
        { s with
          pending := rest
          buffer := (feedTransaction s.buffer chunk).buffer
          output := s.output ++ (feedTransaction s.buffer chunk).records.map Event.packet ++
            [.done (feedTransaction s.buffer chunk).status] }

/-- R106, which the spec derives: the closed form of a FEED in which no frame raises an error. -/
def Obligations.ErrorFreeFeedHasTheClosedForm : Prop :=
  ∀ buffer chunk : List Byte, buffer.length ≤ 187 →
    (∀ i, i < (buffer ++ chunk).length / 188 →
      ∃ r, assemble (((buffer ++ chunk).drop (188 * i)).take 188) = .ok r) →
    (feedTransaction buffer chunk).status = .ok ∧
    (feedTransaction buffer chunk).buffer = (buffer ++ chunk).drop (188 * ((buffer ++ chunk).length / 188)) ∧
    (feedTransaction buffer chunk).records.map Except.ok =
      (List.range ((buffer ++ chunk).length / 188)).map
        (fun i => assemble (((buffer ++ chunk).drop (188 * i)).take 188))

/-- R106, chunk-boundary independence: however a stream is split into chunks, an error-free run gives the same
records, status and B as the one FEED of the whole. -/
def Obligations.RecordsDoNotDependOnChunkBoundaries : Prop :=
  ∀ (buffer : List Byte) (chunks : List (List Byte)), buffer.length ≤ 187 →
    (feedTransaction buffer chunks.flatten).status = .ok →
    feedChunks buffer chunks = feedTransaction buffer chunks.flatten

/-- R105, R205 (D11), R202 (D13): a FEED that ends with an error has restored B, its frame_index is the number of its
records and the index of the first frame that does not assemble, and code and field are that frame's error. -/
def Obligations.FailedFeedRestoresTheBuffer : Prop :=
  ∀ (buffer chunk : List Byte) (kind : ErrorKind) (j : Nat) (field : FieldId), buffer.length ≤ 187 →
    (feedTransaction buffer chunk).status = .err kind j field →
    (feedTransaction buffer chunk).buffer = buffer ∧
    (feedTransaction buffer chunk).records.length = j ∧
    assemble (((buffer ++ chunk).drop (188 * j)).take 188) = .error { kind := kind, field := field } ∧
    (feedTransaction buffer chunk).records.map Except.ok =
      (List.range j).map (fun i => assemble (((buffer ++ chunk).drop (188 * i)).take 188))

/-- R108, R109: an empty chunk is a no-op, and a chunk that exactly completes B to 188 bytes emits exactly one frame's
record and leaves B empty. -/
def Obligations.EmptyAndExactChunks : Prop :=
  ∀ buffer chunk : List Byte, buffer.length ≤ 187 →
    feedTransaction buffer [] = { records := [], status := .ok, buffer := buffer } ∧
    (chunk.length = 188 - buffer.length → ∀ r, assemble (buffer ++ chunk) = .ok r →
      feedTransaction buffer chunk = { records := [r], status := .ok, buffer := [] })

/-- R31, R239: every run of known commands ends: the block comes to have issued all of them, with exactly one `Done`
event for each. -/
def Obligations.EveryCommandEndsWithOneDone : Prop :=
  ∀ s : State, s.feed = none → s.buffer.length ≤ 187 →
    (∀ cmd ∈ s.pending, cmd.code = 0x00#8 ∨ cmd.code = 0x01#8) →
    ∃ n t, run n s = .next t ∧ t.feed = none ∧ t.pending = [] ∧
      t.output.countP Event.isDone = s.output.countP Event.isDone + s.pending.length

/-! ### Whole-machine rules -/

/-- R30, R231: no step takes back an event. -/
def Obligations.OutputOnlyGrows : Prop :=
  ∀ s t : State, step s = .next t → ∃ es, t.output = s.output ++ es

/-- R22, R46: while a FEED runs and goes on running, B is not written, and no other command is taken; a command is
only taken between commands, one at a time. -/
def Obligations.FeedHoldsTheBufferAndTheQueue : Prop :=
  (∀ (s t : State) (w w' : FeedWork), s.feed = some w → step s = .next t → t.feed = some w' →
    t.buffer = s.buffer) ∧
  (∀ (s t : State) (w : FeedWork), s.feed = some w → step s = .next t → t.pending = s.pending) ∧
  (∀ s t : State, s.feed = none → step s = .next t → t = s ∨ ∃ cmd, s.pending = cmd :: t.pending)

/-- R32, R40, R103: within one frame's decode, the frame, the chunk, the chunk cursor, B0 and the frame index do not
change. They change only where the decode is over and its record formed, and then the next frame is cut: the 188 chunk
bytes at the new cursor, with the next index and its header next. The first frame's bytes are already behind the cursor
(R102), and a strided frame moves it by 188 (log 15). -/
def Obligations.FrameIsReadOnlyDuringItsDecode : Prop :=
  ∀ (s t : State) (w w' : FeedWork), s.feed = some w → step s = .next t → t.feed = some w' →
    w'.saved = w.saved ∧ w'.chunk = w.chunk ∧
    ((∃ st, w' = { w with stage := st }) ∨
      ((∃ rec, w.stage = .assembled rec) ∧ w'.frameIndex = w.frameIndex + 1 ∧ w'.stage = .header ∧
        w'.cur = (if w.frameIndex = 0 then w.cur else w.cur + 188) ∧ 188 ≤ w'.chunk.length - w'.cur ∧
        w'.frame = (w'.chunk.drop w'.cur).take 188))

/-- R105, R205, R31: a step that ends a FEED either emits the last record and `Done(OK)`, or restores B and emits
`Done(Err)` with the frame's index and no record. -/
def Obligations.FeedEndsInSuccessOrRestoredBuffer : Prop :=
  ∀ (s t : State) (w : FeedWork), s.feed = some w → step s = .next t → t.feed = none →
    (∃ rec, w.stage = .assembled rec ∧ t.output = s.output ++ [.packet rec, .done .ok]) ∨
    (∃ kind field, t = { s with buffer := w.saved, feed := none,
                                output := s.output ++ [.done (.err kind w.frameIndex field)] })

/-- R121, R205 (D11): a cut frame whose first byte is not 0x47 raises SyncError, whatever else it holds. -/
def Obligations.SyncErrorRestoresTheBuffer : Prop :=
  ∀ (s : State) (w : FeedWork), s.feed = some w → w.stage = .header → w.frame.length = 188 →
    byteAt w.frame 0 ≠ 0x47#8 →
    step s = .next
      { s with buffer := w.saved, feed := none,
               output := s.output ++ [.done (.err .syncError w.frameIndex .noField)] }

/-- R203 (D12), R51: no step outputs AllocationError, and from a state of the invariant none outputs FRAME_BOUNDS. -/
def Obligations.AllocationAndFrameBoundsNeverReported : Prop :=
  ∀ (s t : State) (j : Nat) (kind : ErrorKind) (field : FieldId), s.Inv → step s = .next t →
    Event.done (.err kind j field) ∈ t.output → Event.done (.err kind j field) ∉ s.output →
    kind ≠ .allocationError ∧ field ≠ .frameBounds

/-- R201, R202 (D13): the error codes and field ids. -/
def Obligations.ErrorCodesAndFieldIds : Prop :=
  Status.ok.code = 0 ∧
  (∀ j f, (Status.err .syncError j f).code = 1 ∧ (Status.err .allocationError j f).code = 2 ∧
    (Status.err .malformedFieldError j f).code = 3) ∧
  [FieldId.noField, .afLength, .pcr, .opcr, .spliceCountdown, .privateDataLength, .privateData, .extensionLength,
    .extensionFlags, .ltw, .piecewiseRate, .seamlessSplice, .frameBounds].map FieldId.id = List.range 13

/-- R160, R161 with R145, R181: where no flag is left to be considered, a step that runs no row forms the extension
record, or the AdaptationField and with it the packet record: the eight flags bit by bit (their places are D5's), the
options as decoded, and the payload, if present, from 5 + length. Nothing else changes. That each is a step of its own
is the model's choice (log 1). -/
def Obligations.ConsideredFlagsCloseTheirRecord : Prop :=
  ∀ (s : State) (w : FeedWork) (h : Header) (b : BodyWork), s.feed = some w →
    (∀ x : ExtWork, w.stage = .extension h b x → x.todo &&& 0xE0#8 = 0#8 →
      step s = .next
        { s with feed := some { w with
            stage := .subfields h
              { b with
                extension := some { length := x.length, ltw := x.ltw, piecewiseRate := x.piecewiseRate,
                                    seamlessSplice := x.seamlessSplice } } } }) ∧
    (w.stage = .subfields h b → b.todo &&& 0x1F#8 = 0#8 →
      step s = .next
        { s with feed := some { w with
            stage := .assembled
              { transportErrorIndicator := h.fields.transportErrorIndicator
                payloadUnitStartIndicator := h.fields.payloadUnitStartIndicator
                transportPriority := h.fields.transportPriority
                pid := h.fields.pid
                transportScramblingControl := h.fields.transportScramblingControl
                adaptationFieldControl := h.adaptationFieldControl
                continuityCounter := h.fields.continuityCounter
                adaptationField := some
                  { length := b.length
                    body := some
                      { discontinuityIndicator := b.flags[7]
                        randomAccessIndicator := b.flags[6]
                        elementaryStreamPriorityIndicator := b.flags[5]
                        pcrFlag := b.flags[4]
                        opcrFlag := b.flags[3]
                        splicingPointFlag := b.flags[2]
                        transportPrivateDataFlag := b.flags[1]
                        adaptationFieldExtensionFlag := b.flags[0]
                        pcr := b.pcr
                        opcr := b.opcr
                        spliceCountdown := b.spliceCountdown
                        privateData := b.privateData
                        extension := b.extension } }
                payload :=
                  if h.adaptationFieldControl[0] then
                    some { offset := 5 + b.length.toNat, length := 188 - (5 + b.length.toNat) }
                  else none
                rawFrame := w.frame } } })
end

