-- ==== Sys2Proof/Laws/Decode.lean ====
section
/-!
SUPPORT. The decoder's parts: header bits as numbers, and the packet kind by its two control bits (R61, R75).
-/
namespace Sys2Proof

theorem BitVec2_cases (v : BitVec 2) : v = 0b00#2 ∨ v = 0b01#2 ∨ v = 0b10#2 ∨ v = 0b11#2 := by revert v; decide

/-- The three flags of F[1] as numbers (R122). -/
theorem headerFlags_toNat (b : Byte) :
    b[7].toNat = b.toNat / 128 ∧ b[6].toNat = b.toNat / 64 % 2 ∧ b[5].toNat = b.toNat / 32 % 2 := by
  revert b; decide

/-- adaptation_field_control's bits: "adaptation field present" and "payload present" (R61). -/
theorem afControlOf_bits (b : Byte) :
    (afControlOf b)[1] = decide (b.toNat / 32 % 2 = 1) ∧ (afControlOf b)[0] = decide (b.toNat / 16 % 2 = 1) := by
  revert b; decide

@[simp] theorem packetKind_none (h : HeaderFields) : packetKind 0b00#2 h = .pktNone h := rfl
@[simp] theorem packetKind_payload (h : HeaderFields) : packetKind 0b01#2 h = .pktPayload h := rfl
@[simp] theorem packetKind_af (h : HeaderFields) : packetKind 0b10#2 h = .pktAf h := rfl
@[simp] theorem packetKind_afPayload (h : HeaderFields) : packetKind 0b11#2 h = .pktAfPayload h := rfl

end Sys2Proof
end

