-- ==== Sys2Proof/Laws/Flags.lean ====
section
/-!
SUPPORT. Clearing one flag of a flags byte: bit by bit, and as the mask the obligations write (R146).
-/
namespace Sys2Proof.Machine

/-- Clearing flag `j` changes that bit only. -/
theorem getLsbD_clearFlag (t : Byte) (j k : Nat) (hj : j < 8) :
    (clearFlag t j).getLsbD k = (t.getLsbD k && decide (k ≠ j)) := by
  by_cases hk : k < 8
  · simp only [clearFlag, BitVec.getLsbD_and, BitVec.getLsbD_not, BitVec.getLsbD_shiftLeft, hk, decide_true,
      Bool.true_and]
    by_cases e : k = j
    · subst e; simp
    · by_cases l : k < j
      · simp [l, e]
      · have : k - j ≠ 0 := by omega
        simp [l, e, BitVec.getLsbD_one, this]
  · simp [BitVec.getLsbD_of_ge _ _ (Nat.le_of_not_lt hk)]

/-- `getLsbD_clearFlag`, for an index known to be in range. -/
@[simp] theorem getElem_clearFlag (t : Byte) (j k : Nat) (hk : k < 8) (hj : j < 8 := by decide) :
    (clearFlag t j)[k] = (t[k] && decide (k ≠ j)) := by
  rw [← BitVec.getLsbD_eq_getElem, getLsbD_clearFlag t j k hj, BitVec.getLsbD_eq_getElem]

/-- A flag still set after clearing was set before. -/
theorem getLsbD_of_clearFlag {t : Byte} {j k : Nat} (h : (clearFlag t j).getLsbD k = true) : t.getLsbD k = true := by
  simp only [clearFlag, BitVec.getLsbD_and, Bool.and_eq_true] at h
  exact h.1

/-- The masks of the eight flags. -/
theorem clearFlag_mask (t : Byte) :
    clearFlag t 7 = t &&& 0x7F#8 ∧ clearFlag t 6 = t &&& 0xBF#8 ∧ clearFlag t 5 = t &&& 0xDF#8 ∧
    clearFlag t 4 = t &&& 0xEF#8 ∧ clearFlag t 3 = t &&& 0xF7#8 ∧ clearFlag t 2 = t &&& 0xFB#8 ∧
    clearFlag t 1 = t &&& 0xFD#8 ∧ clearFlag t 0 = t &&& 0xFE#8 :=
  ⟨rfl, rfl, rfl, rfl, rfl, rfl, rfl, rfl⟩

/-! ### The record's flags and options (R145, R161) -/

@[simp] theorem bodyOf_discontinuityIndicator (b : BodyWork) : (bodyOf b).discontinuityIndicator = b.flags[7] := rfl
@[simp] theorem bodyOf_randomAccessIndicator (b : BodyWork) : (bodyOf b).randomAccessIndicator = b.flags[6] := rfl
@[simp] theorem bodyOf_elementaryStreamPriorityIndicator (b : BodyWork) :
    (bodyOf b).elementaryStreamPriorityIndicator = b.flags[5] := rfl
@[simp] theorem bodyOf_pcrFlag (b : BodyWork) : (bodyOf b).pcrFlag = b.flags[4] := rfl
@[simp] theorem bodyOf_opcrFlag (b : BodyWork) : (bodyOf b).opcrFlag = b.flags[3] := rfl
@[simp] theorem bodyOf_splicingPointFlag (b : BodyWork) : (bodyOf b).splicingPointFlag = b.flags[2] := rfl
@[simp] theorem bodyOf_transportPrivateDataFlag (b : BodyWork) :
    (bodyOf b).transportPrivateDataFlag = b.flags[1] := rfl
@[simp] theorem bodyOf_adaptationFieldExtensionFlag (b : BodyWork) :
    (bodyOf b).adaptationFieldExtensionFlag = b.flags[0] := rfl
@[simp] theorem bodyOf_pcr (b : BodyWork) : (bodyOf b).pcr = b.pcr := rfl
@[simp] theorem bodyOf_opcr (b : BodyWork) : (bodyOf b).opcr = b.opcr := rfl
@[simp] theorem bodyOf_spliceCountdown (b : BodyWork) : (bodyOf b).spliceCountdown = b.spliceCountdown := rfl
@[simp] theorem bodyOf_privateData (b : BodyWork) : (bodyOf b).privateData = b.privateData := rfl
@[simp] theorem bodyOf_extension (b : BodyWork) : (bodyOf b).extension = b.extension := rfl

end Sys2Proof.Machine
end

