-- ==== Sys2Proof/Laws/State.lean ====
section
/-!
SUPPORT. One lemma per field per update of State, true by definition, so that no later proof unfolds a record update.
-/
namespace Sys2Proof.Machine

@[simp] theorem State.emit_buffer (e : Event) (s : State) : (s.emit e).buffer = s.buffer := rfl
@[simp] theorem State.emit_feed (e : Event) (s : State) : (s.emit e).feed = s.feed := rfl
@[simp] theorem State.emit_pending (e : Event) (s : State) : (s.emit e).pending = s.pending := rfl
@[simp] theorem State.emit_output (e : Event) (s : State) : (s.emit e).output = s.output ++ [e] := rfl

@[simp] theorem State.setStage_buffer (w : FeedWork) (st : Stage) (s : State) : (s.setStage w st).buffer = s.buffer := rfl
@[simp] theorem State.setStage_feed (w : FeedWork) (st : Stage) (s : State) :
    (s.setStage w st).feed = some { w with stage := st } := rfl
@[simp] theorem State.setStage_pending (w : FeedWork) (st : Stage) (s : State) :
    (s.setStage w st).pending = s.pending := rfl
@[simp] theorem State.setStage_output (w : FeedWork) (st : Stage) (s : State) :
    (s.setStage w st).output = s.output := rfl

@[simp] theorem raise_buffer (w : FeedWork) (k : ErrorKind) (f : FieldId) (s : State) :
    (raise w k f s).buffer = w.saved := rfl
@[simp] theorem raise_feed (w : FeedWork) (k : ErrorKind) (f : FieldId) (s : State) :
    (raise w k f s).feed = none := rfl
@[simp] theorem raise_pending (w : FeedWork) (k : ErrorKind) (f : FieldId) (s : State) :
    (raise w k f s).pending = s.pending := rfl
@[simp] theorem raise_output (w : FeedWork) (k : ErrorKind) (f : FieldId) (s : State) :
    (raise w k f s).output = s.output ++ [.done (.err k w.frameIndex f)] := rfl

@[simp] theorem beginFeed_pending (chunk : List Byte) (s : State) : (beginFeed chunk s).pending = s.pending := by
  unfold beginFeed; split <;> rfl

@[simp] theorem finishFrame_pending (w : FeedWork) (rec : TsPacket) (s : State) :
    (finishFrame w rec s).pending = s.pending := by
  unfold finishFrame; split <;> rfl

@[simp] theorem reset_buffer : State.reset.buffer = [] := rfl
@[simp] theorem reset_feed : State.reset.feed = none := rfl
@[simp] theorem reset_pending : State.reset.pending = [] := rfl
@[simp] theorem reset_output : State.reset.output = [] := rfl

end Sys2Proof.Machine
end

