-- ==== Sys2Proof/Laws/Ops.lean ====
section
/-!
SUPPORT. One spec lemma per shared operation: slices of a byte string, the bounds check, where an instruction may run,
how a decode structure ends, and how frames are cut. Proofs about instructions cite these and do not unfold the
operations.
-/
namespace Sys2Proof.Machine

/-! ### Bytes -/

@[simp] theorem length_slice (S : List Byte) (a b : Nat) : (slice S a b).length = min (b - a) (S.length - a) := by
  simp [slice]

theorem slice_to_end (S : List Byte) (a : Nat) : slice S a S.length = S.drop a := by
  simp [slice, List.take_of_length_le]

theorem slice_width (S : List Byte) (a n : Nat) : slice S a (a + n) = (S.drop a).take n := by
  simp [slice]

theorem byteAt_slice (S : List Byte) (a b k : Nat) (hk : k < b - a) : byteAt (slice S a b) k = byteAt S (a + k) := by
  simp [byteAt, slice, List.getD_eq_getElem?_getD, hk]

theorem byteAt_of_le {S : List Byte} {i : Nat} (h : S.length ≤ i) : byteAt S i = 0#8 := by
  simp [byteAt, List.getD_eq_getElem?_getD, List.getElem?_eq_none h]

/-- Slices that agree byte by byte are equal. -/
theorem slice_congr {S T : List Byte} {a b : Nat} (hl : T.length = S.length)
    (h : ∀ i, a ≤ i → i < b → byteAt T i = byteAt S i) : slice T a b = slice S a b := by
  apply List.ext_getElem
  · simp [hl]
  · intro k h1 h2
    simp only [length_slice] at h1 h2
    have hk := h (a + k) (by omega) (by omega)
    simp only [byteAt, List.getD_eq_getElem?_getD] at hk
    rw [List.getElem?_eq_getElem (by omega), List.getElem?_eq_getElem (by omega)] at hk
    simpa [slice] using hk

/-- A 4-byte read is the big-endian weighted sum (R42). -/
theorem memRead_four (F : List Byte) (c : Nat) (h : c + 4 ≤ F.length) :
    memRead F c 4 = (byteAt F c).toNat * 2 ^ 24 + (byteAt F (c + 1)).toNat * 2 ^ 16 +
      (byteAt F (c + 2)).toNat * 2 ^ 8 + (byteAt F (c + 3)).toNat := by
  have e : slice F c (c + 4) = [byteAt F c, byteAt F (c + 1), byteAt F (c + 2), byteAt F (c + 3)] := by
    apply List.ext_getElem
    · simp; omega
    · intro k h1 h2
      have hk : k < 4 := by simpa using h2
      have := byteAt_slice F c (c + 4) k (by omega)
      rw [byteAt, List.getD_eq_getElem?_getD, List.getElem?_eq_getElem h1] at this
      rw [Option.getD_some] at this
      rw [this]
      match k, hk with
      | 0, _ => rfl
      | 1, _ => rfl
      | 2, _ => rfl
      | 3, _ => rfl
  simp only [memRead, e, bigEndian]
  omega

/-! ### The bounds check -/

theorem claim_ok_iff {F : List Byte} {afEnd c w : Nat} {f : FieldId} :
    claim F afEnd c w f = .ok () ↔ c + w ≤ afEnd ∧ c + w ≤ F.length := by
  unfold claim need backstop
  by_cases h : c + w ≤ afEnd <;> by_cases h' : c + w ≤ F.length <;> simp [h, h']

theorem claim_past_region {F : List Byte} {afEnd c w : Nat} {f : FieldId} (h : afEnd < c + w) :
    claim F afEnd c w f = .error f := by
  simp [claim, need, Nat.not_le.mpr h]

/-- What the check can answer: passed, the part's field id, or the backstop's. -/
theorem claim_cases (F : List Byte) (afEnd c w : Nat) (f : FieldId) :
    (c + w ≤ afEnd ∧ c + w ≤ F.length ∧ claim F afEnd c w f = .ok ()) ∨
    (¬ c + w ≤ afEnd ∧ claim F afEnd c w f = .error f) ∨
    (c + w ≤ afEnd ∧ ¬ c + w ≤ F.length ∧ claim F afEnd c w f = .error .frameBounds) := by
  unfold claim need backstop
  by_cases h : c + w ≤ afEnd <;> by_cases h' : c + w ≤ F.length <;> simp [h, h']

variable {α : Type}

theorem readField_ok_iff {F : List Byte} {afEnd c w : Nat} {f : FieldId} {value : α} {r : α × Nat} :
    readField F afEnd c w f value = .ok r ↔ c + w ≤ afEnd ∧ c + w ≤ F.length ∧ r = (value, c + w) := by
  rcases claim_cases F afEnd c w f with ⟨h1, h2, h⟩ | ⟨h1, h⟩ | ⟨h1, h2, h⟩ <;>
    simp [readField, h, h1, eq_comm]
  · simp [h2]
  · simp [h2]

theorem readField_fits {F : List Byte} {afEnd c w : Nat} {f : FieldId} {value : α}
    (h : c + w ≤ afEnd) (hF : afEnd ≤ F.length) : readField F afEnd c w f value = .ok (value, c + w) :=
  readField_ok_iff.mpr ⟨h, by omega, rfl⟩

theorem readField_past_region {F : List Byte} {afEnd c w : Nat} {f : FieldId} {value : α} (h : afEnd < c + w) :
    readField F afEnd c w f value = .error f := by
  simp [readField, claim_past_region h]

theorem readField_error {F : List Byte} {afEnd c w : Nat} {f e : FieldId} {value : α}
    (h : readField F afEnd c w f value = .error e) (hF : afEnd ≤ F.length) : e = f := by
  rcases claim_cases F afEnd c w f with ⟨h1, h2, hc⟩ | ⟨h1, hc⟩ | ⟨h1, h2, hc⟩
  · simp [readField, hc] at h
  · simpa [readField, hc, eq_comm] using h
  · omega

theorem readPrivateData_ok_iff {F : List Byte} {afEnd c : Nat} {r : List Byte × Nat} :
    readPrivateData F afEnd c = .ok r ↔
      c + 1 + (byteAt F c).toNat ≤ afEnd ∧ c + 1 + (byteAt F c).toNat ≤ F.length ∧
        r = (slice F (c + 1) (c + 1 + (byteAt F c).toNat), c + 1 + (byteAt F c).toNat) := by
  rcases claim_cases F afEnd c 1 .privateDataLength with ⟨h1, h2, h⟩ | ⟨h1, h⟩ | ⟨h1, h2, h⟩ <;>
    simp [readPrivateData, h, readField_ok_iff] <;> omega

theorem readExtensionHeader_ok_iff {F : List Byte} {afEnd c : Nat} {r : (Byte × Byte) × Nat} :
    readExtensionHeader F afEnd c = .ok r ↔
      c + 2 ≤ afEnd ∧ c + 2 ≤ F.length ∧ r = ((byteAt F c, byteAt F (c + 1)), c + 2) := by
  rcases claim_cases F afEnd c 1 .extensionLength with ⟨h1, h2, h⟩ | ⟨h1, h⟩ | ⟨h1, h2, h⟩ <;>
    simp only [readExtensionHeader, h, readField_ok_iff, Nat.add_assoc, Nat.reduceAdd, reduceCtorEq, false_iff] <;>
    omega

/-- AF_BODY's start, where it is read (R142, R143, R145). -/
theorem readBodyStart_ok {F : List Byte} {length : Byte} {b : BodyWork} (h : readBodyStart F length = .ok b) :
    length.toNat ≤ 183 ∧ 6 ≤ F.length ∧
      b = { length := length, afEnd := 5 + length.toNat, cursor := 6, flags := byteAt F 5, todo := byteAt F 5,
            pcr := none, opcr := none, spliceCountdown := none, privateData := none, extension := none } := by
  unfold readBodyStart backstop at h
  by_cases h1 : 183 < length.toNat <;> by_cases h2 : 6 ≤ F.length <;>
    simp [h1, h2, eq_comm] at h ⊢
  exact ⟨by omega, h⟩

/-! ### Where an instruction may run -/

@[simp] theorem onIdle_idle {s : State} {k : State → State} (h : s.feed = none) : onIdle s k = .next (k s) := by
  simp [onIdle, h]

theorem onIdle_next {s t : State} {k : State → State} (h : onIdle s k = .next t) : s.feed = none ∧ t = k s := by
  cases hf : s.feed <;> simp [onIdle, hf, eq_comm] at h ⊢
  exact h

variable {s t : State} {w : FeedWork} {h : Header} {b : BodyWork} {x : ExtWork}

theorem onHeader_at {k : FeedWork → Host.Outcome State Fault Refusal} (hf : s.feed = some w)
    (hs : w.stage = .header) : onHeader s k = k w := by
  simp [onHeader, hf, hs]

theorem onHeader_next {k : FeedWork → Host.Outcome State Fault Refusal} (e : onHeader s k = .next t) :
    ∃ w, s.feed = some w ∧ w.stage = .header ∧ k w = .next t := by
  unfold onHeader at e
  split at e
  · rename_i w hf
    cases hs : w.stage <;> simp [hs] at e
    exact ⟨w, hf, hs, e⟩
  · cases e

theorem onAfLength_at {k : FeedWork → Header → Host.Outcome State Fault Refusal} (hf : s.feed = some w)
    (hs : w.stage = .afLength h) : onAfLength s k = k w h := by
  simp [onAfLength, hf, hs]

theorem onAfLength_next {k : FeedWork → Header → Host.Outcome State Fault Refusal} (e : onAfLength s k = .next t) :
    ∃ w h, s.feed = some w ∧ w.stage = .afLength h ∧ k w h = .next t := by
  unfold onAfLength at e
  split at e
  · rename_i w hf
    cases hs : w.stage <;> simp [hs] at e
    exact ⟨w, _, hf, hs, e⟩
  · cases e

theorem onSubfields_at {k : FeedWork → Header → BodyWork → Host.Outcome State Fault Refusal} (hf : s.feed = some w)
    (hs : w.stage = .subfields h b) : onSubfields s k = k w h b := by
  simp [onSubfields, hf, hs]

theorem onSubfields_next {k : FeedWork → Header → BodyWork → Host.Outcome State Fault Refusal}
    (e : onSubfields s k = .next t) : ∃ w h b, s.feed = some w ∧ w.stage = .subfields h b ∧ k w h b = .next t := by
  unfold onSubfields at e
  split at e
  · rename_i w hf
    cases hs : w.stage <;> simp [hs] at e
    exact ⟨w, _, _, hf, hs, e⟩
  · cases e

theorem onExtension_at {k : FeedWork → Header → BodyWork → ExtWork → Host.Outcome State Fault Refusal}
    (hf : s.feed = some w) (hs : w.stage = .extension h b x) : onExtension s k = k w h b x := by
  simp [onExtension, hf, hs]

theorem onExtension_next {k : FeedWork → Header → BodyWork → ExtWork → Host.Outcome State Fault Refusal}
    (e : onExtension s k = .next t) :
    ∃ w h b x, s.feed = some w ∧ w.stage = .extension h b x ∧ k w h b x = .next t := by
  unfold onExtension at e
  split at e
  · rename_i w hf
    cases hs : w.stage <;> simp [hs] at e
    exact ⟨w, _, _, _, hf, hs, e⟩
  · cases e

/-! ### How a decode structure ends -/

@[simp] theorem advance_ok (w : FeedWork) (st : Stage) (s : State) :
    advance w (.ok st) s = .next (s.setStage w st) := rfl

@[simp] theorem advance_error (w : FeedWork) (f : FieldId) (s : State) :
    advance w (.error f) s = .next (raise w .malformedFieldError f s) := rfl

/-- A decode structure reaches its next stage or raises MalformedFieldError; it never stops. -/
theorem advance_map_next {β : Type} {w : FeedWork} {r : Except FieldId β} {g : β → Stage} {s t : State}
    (h : advance w (r.map g) s = .next t) :
    (∃ v, r = .ok v ∧ t = s.setStage w (g v)) ∨ (∃ f, r = .error f ∧ t = raise w .malformedFieldError f s) := by
  cases r with
  | ok v => exact .inl ⟨v, rfl, by simpa [Except.map, advance, eq_comm] using h⟩
  | error f => exact .inr ⟨f, rfl, by simpa [Except.map, advance, eq_comm] using h⟩

/-! ### Cutting frames -/

/-- FEED's first step: the chunk is kept (R101) or the first frame is cut (R102). -/
theorem beginFeed_cases (chunk : List Byte) (s : State) :
    (s.buffer.length + chunk.length < 188 ∧ beginFeed chunk s = { s.emit (.done .ok) with buffer := s.buffer ++ chunk }) ∨
    (188 ≤ s.buffer.length + chunk.length ∧ beginFeed chunk s =
      { s with feed := some { saved := s.buffer, chunk := chunk, cur := 188 - s.buffer.length, frameIndex := 0,
                              frame := s.buffer ++ slice chunk 0 (188 - s.buffer.length), stage := .header } }) := by
  unfold beginFeed
  by_cases h : s.buffer.length + chunk.length < 188
  · exact .inl ⟨h, if_pos h⟩
  · exact .inr ⟨by omega, if_neg h⟩

/-- After a frame: the next frame is cut (R103) or the FEED ends (R104). -/
theorem finishFrame_cases (w : FeedWork) (rec : TsPacket) (s : State) :
    (188 ≤ w.chunk.length - cursorAfterFrame w ∧ finishFrame w rec s =
      { s.emit (.packet rec) with
        feed := some { w with cur := cursorAfterFrame w, frameIndex := w.frameIndex + 1,
                              frame := slice w.chunk (cursorAfterFrame w) (cursorAfterFrame w + 188),
                              stage := .header } }) ∨
    (w.chunk.length - cursorAfterFrame w < 188 ∧ finishFrame w rec s =
      { (s.emit (.packet rec)).emit (.done .ok) with
        buffer := slice w.chunk (cursorAfterFrame w) w.chunk.length, feed := none }) := by
  unfold finishFrame
  by_cases h : 188 ≤ w.chunk.length - cursorAfterFrame w
  · exact .inl ⟨h, if_pos h⟩
  · exact .inr ⟨by omega, if_neg h⟩

end Sys2Proof.Machine
end

