-- ==== Sys2Proof/Laws/Memory.lean ====
section
/-!
SUPPORT. Every operation on the byte spaces keeps their form, Memory.wf (R22, R40), and the reset state has it.
-/
namespace Sys2Proof.Machine

theorem reset_memory_wf : Memory.wf State.reset := ⟨by simp, by simp⟩

variable {s : State} {w : FeedWork}

theorem setStage_memory_wf (st : Stage) (h : Memory.wf s) (hf : s.feed = some w) : Memory.wf (s.setStage w st) := by
  refine ⟨h.1, ?_⟩
  intro w' hw'
  simp only [State.setStage_feed, Option.mem_def, Option.some.injEq] at hw'
  subst hw'
  exact h.2 w hf

/-- Taking an error: B is B0, which was B (R105). -/
theorem raise_memory_wf (k : ErrorKind) (f : FieldId) (h : Memory.wf s) (hf : s.feed = some w) :
    Memory.wf (raise w k f s) := by
  have hw := h.2 w hf
  exact ⟨by simp [hw.1, h.1], by simp⟩

/-- The cursor after a frame stays in the chunk (R103). -/
theorem cursorAfterFrame_le (h : Memory.wf s) (hf : s.feed = some w) : cursorAfterFrame w ≤ w.chunk.length := by
  obtain ⟨_, _, h1, h2⟩ := h.2 w hf
  unfold cursorAfterFrame
  split
  · exact h1
  · exact h2 ‹_›

/-- Emitting a record and cutting the next frame, or ending the FEED (R103, R104). -/
theorem finishFrame_memory_wf (rec : TsPacket) (h : Memory.wf s) (hf : s.feed = some w) :
    Memory.wf (finishFrame w rec s) := by
  have hc := cursorAfterFrame_le h hf
  have hw := h.2 w hf
  rcases finishFrame_cases w rec s with ⟨h1, e⟩ | ⟨h1, e⟩ <;> rw [e]
  · refine ⟨h.1, ?_⟩
    intro w' hw'
    simp only [Option.mem_def, Option.some.injEq] at hw'
    subst hw'
    exact ⟨hw.1, by simp; omega, hc, fun _ => by show cursorAfterFrame w + 188 ≤ w.chunk.length; omega⟩
  · exact ⟨by simp; omega, by simp⟩

/-- FEED's first step (R101, R102). -/
theorem beginFeed_memory_wf (chunk : List Byte) (h : Memory.wf s) (hf : s.feed = none) :
    Memory.wf (beginFeed chunk s) := by
  have hb := h.1
  rcases beginFeed_cases chunk s with ⟨h1, e⟩ | ⟨h1, e⟩ <;> rw [e]
  · exact ⟨by simp; omega, by simp [hf]⟩
  · refine ⟨hb, ?_⟩
    intro w' hw'
    simp only [Option.mem_def, Option.some.injEq] at hw'
    subst hw'
    exact ⟨rfl, by simp; omega, by simp; omega, by simp⟩

/-- RESET (R107). -/
theorem emptied_memory_wf (e : Event) (hf : s.feed = none) : Memory.wf { s.emit e with buffer := [] } :=
  ⟨by simp, by simp [hf]⟩

end Sys2Proof.Machine
end

