-- ==== Sys2Proof/Laws/Operands.lean ====
section
/-!
SUPPORT. The value formulas as numbers: nothing is cut off by a record field's width (R147, R157, R158, R159), and each
value depends on its own bytes only.
-/
namespace Sys2Proof.Machine

theorem bits_7_7 (b : Byte) : bits b 7 7 = b.toNat / 128 := by
  have := b.isLt; simp only [bits]; omega

theorem bits_low (b : Byte) (n : Nat) : bits b n 0 = b.toNat % 2 ^ (n + 1) := by
  simp [bits]

/-- The PCR and OPCR base fits its 33 bits (R147). -/
theorem clockRef_base (F : List Byte) (c : Nat) (h : c + 4 ≤ F.length) :
    (clockRef F c).base.toNat =
      ((byteAt F c).toNat * 2 ^ 24 + (byteAt F (c + 1)).toNat * 2 ^ 16 + (byteAt F (c + 2)).toNat * 2 ^ 8 +
        (byteAt F (c + 3)).toNat) * 2 + (byteAt F (c + 4)).toNat / 128 := by
  have := (byteAt F c).isLt
  have := (byteAt F (c + 1)).isLt
  have := (byteAt F (c + 2)).isLt
  have := (byteAt F (c + 3)).isLt
  have := (byteAt F (c + 4)).isLt
  simp only [clockRef, BitVec.toNat_ofNat, memRead_four F c h, bits_7_7]
  omega

/-- The PCR and OPCR extension fits its 9 bits (R147). -/
theorem clockRef_extension (F : List Byte) (c : Nat) :
    (clockRef F c).extension.toNat = (byteAt F (c + 4)).toNat % 2 * 256 + (byteAt F (c + 5)).toNat := by
  have := (byteAt F (c + 5)).isLt
  simp only [clockRef, BitVec.toNat_ofNat, bits]
  omega

/-- The LTW offset fits its 15 bits (R157). -/
theorem ltwValue_offset (F : List Byte) (c : Nat) :
    (ltwValue F c).offset.toNat = (byteAt F c).toNat % 128 * 256 + (byteAt F (c + 1)).toNat := by
  have := (byteAt F (c + 1)).isLt
  simp only [ltwValue, BitVec.toNat_ofNat, bits]
  omega

/-- The piecewise rate fits its 22 bits (R158). -/
theorem piecewiseRateValue_toNat (F : List Byte) (c : Nat) :
    (piecewiseRateValue F c).toNat =
      (byteAt F c).toNat % 64 * 65536 + (byteAt F (c + 1)).toNat * 256 + (byteAt F (c + 2)).toNat := by
  have := (byteAt F (c + 1)).isLt
  have := (byteAt F (c + 2)).isLt
  simp only [piecewiseRateValue, BitVec.toNat_ofNat, bits]
  omega

theorem and_07_toNat (b : Byte) : (b &&& 0x07#8).toNat = b.toNat % 8 := by revert b; decide

theorem and_FE_toNat (b : Byte) : (b &&& 0xFE#8).toNat = b.toNat / 2 * 2 := by revert b; decide

/-- The seamless-splice sum fits its 33 bits (R71, R159). -/
theorem seamlessSpliceValue_dts (F : List Byte) (c : Nat) :
    (seamlessSpliceValue F c).dtsNextAu.toNat =
      (byteAt F c).toNat % 8 * 2 ^ 29 + (byteAt F (c + 1)).toNat * 2 ^ 22 + (byteAt F (c + 2)).toNat / 2 * 2 ^ 15 +
        (byteAt F (c + 3)).toNat * 2 ^ 7 + (byteAt F (c + 4)).toNat / 2 := by
  have := (byteAt F c).isLt
  have := (byteAt F (c + 1)).isLt
  have := (byteAt F (c + 2)).isLt
  have := (byteAt F (c + 3)).isLt
  have := (byteAt F (c + 4)).isLt
  simp only [seamlessSpliceValue, BitVec.toNat_ofNat, Nat.shiftRight_eq_div_pow, and_07_toNat, and_FE_toNat]
  omega

theorem seamlessSpliceValue_type (F : List Byte) (c : Nat) :
    (seamlessSpliceValue F c).spliceType.toNat = (byteAt F c).toNat / 16 := by
  have := (byteAt F c).isLt
  simp only [seamlessSpliceValue, BitVec.toNat_ofNat, Nat.shiftRight_eq_div_pow]
  omega

/-- splice_countdown is the two's-complement reading (R66, D20), -128 to 127. -/
theorem sext8_eq_toInt (b : Byte) : sext8 b = b.toInt := by revert b; decide

theorem sext8_range (b : Byte) : -128 ≤ sext8 b ∧ sext8 b ≤ 127 := by revert b; decide

/-! ### What each value depends on -/

variable {F F' : List Byte} {c : Nat}

theorem clockRef_congr (hl : F'.length = F.length) (h : ∀ i, c ≤ i → i < c + 6 → byteAt F' i = byteAt F i) :
    clockRef F' c = clockRef F c := by
  simp only [clockRef, memRead, h (c + 4) (by omega) (by omega), h (c + 5) (by omega) (by omega),
    slice_congr hl (a := c) (b := c + 4) (fun i h1 h2 => h i h1 (by omega))]

theorem ltwValue_congr (h : ∀ i, c ≤ i → i < c + 2 → byteAt F' i = byteAt F i) : ltwValue F' c = ltwValue F c := by
  simp [ltwValue, h c, h (c + 1)]

theorem piecewiseRateValue_congr (h : ∀ i, c ≤ i → i < c + 3 → byteAt F' i = byteAt F i) :
    piecewiseRateValue F' c = piecewiseRateValue F c := by
  simp [piecewiseRateValue, h c, h (c + 1), h (c + 2)]

theorem seamlessSpliceValue_congr (h : ∀ i, c ≤ i → i < c + 5 → byteAt F' i = byteAt F i) :
    seamlessSpliceValue F' c = seamlessSpliceValue F c := by
  simp [seamlessSpliceValue, h c, h (c + 1), h (c + 2), h (c + 3), h (c + 4)]

end Sys2Proof.Machine
end

