-- ==== Sys2Proof/Laws/PerInstr.lean ====
section
/-!
SUPPORT. Facts about every instruction as syntax, one lemma per constructor.

`EncodesInItsFormat`: the encoding of an instruction has the shape of its format. A header is four bytes, the first of
them the sync byte (R61); a length byte or a flags byte is one byte (R63, R64, R68); a command is a code, 0x00 or 0x01,
and its operand (R90).
-/
namespace Sys2Proof.Laws.EncodesInItsFormat

def Statement (i : Instr) : Prop :=
  match i.format with
  | .hostCmd => ∃ code operand, encode i = code :: operand ∧ (code = 0x00#8 ∨ code = 0x01#8)
  | .tsHeader32 => (encode i).length = 4 ∧ (encode i).head? = some Config.syncByte
  | .afLength8 => (encode i).length = 1
  | .afFlags8 => (encode i).length = 1
  | .afextFlags8 => (encode i).length = 1

theorem reset : Statement .reset := ⟨_, _, rfl, .inl rfl⟩

theorem feed (chunk : List Byte) : Statement (.feed chunk) := ⟨_, _, rfl, .inr rfl⟩

theorem pktNone (h : HeaderFields) : Statement (.pktNone h) := ⟨rfl, rfl⟩

theorem pktPayload (h : HeaderFields) : Statement (.pktPayload h) := ⟨rfl, rfl⟩

theorem pktAf (h : HeaderFields) : Statement (.pktAf h) := ⟨rfl, rfl⟩

theorem pktAfPayload (h : HeaderFields) : Statement (.pktAfPayload h) := ⟨rfl, rfl⟩

theorem afEmpty : Statement .afEmpty := rfl

theorem afBody (length : Byte) : Statement (.afBody length) := rfl

theorem afPcr : Statement .afPcr := rfl

theorem afOpcr : Statement .afOpcr := rfl

theorem afSpliceCountdown : Statement .afSpliceCountdown := rfl

theorem afPrivateData : Statement .afPrivateData := rfl

theorem afExtension : Statement .afExtension := rfl

theorem extLtw : Statement .extLtw := rfl

theorem extPiecewiseRate : Statement .extPiecewiseRate := rfl

theorem extSeamlessSplice : Statement .extSeamlessSplice := rfl

end Sys2Proof.Laws.EncodesInItsFormat
end

