-- ==== Sys2Proof/Laws/Step.lean ====
section
/-!
SUPPORT. What a step can do, said once: `exec_next_cases` and `step_next_cases` are the inversions later proofs use,
and the step at each stage is written out.
-/
namespace Sys2Proof.Machine

variable {s t : State} {w : FeedWork} {h : Header} {b : BodyWork} {x : ExtWork}

/-- An instruction that answers a next state: a command between commands, or a decode structure at its stage, which
moves the stage or raises MalformedFieldError and changes nothing else. -/
theorem exec_next_cases {i : Instr} (h : exec i s = .next t) :
    (s.feed = none ∧
      ((i = .reset ∧ t = { s.emit (.done .ok) with buffer := [] }) ∨ ∃ chunk, i = .feed chunk ∧ t = beginFeed chunk s)) ∨
    (∃ w, s.feed = some w ∧ i.format ≠ .hostCmd ∧
      ((∃ st, t = s.setStage w st) ∨ ∃ f, t = raise w .malformedFieldError f s)) := by
  cases i with
  | reset =>
    obtain ⟨h1, h2⟩ := onIdle_next (k := fun s => { s.emit (.done .ok) with buffer := [] }) h
    exact .inl ⟨h1, .inl ⟨rfl, h2⟩⟩
  | feed c =>
    obtain ⟨h1, h2⟩ := onIdle_next (k := beginFeed c) h
    exact .inl ⟨h1, .inr ⟨c, rfl, h2⟩⟩
  | pktNone _ | pktPayload _ | pktAf _ | pktAfPayload _ =>
    obtain ⟨w, h1, _, h3⟩ := onHeader_next h
    cases h3
    exact .inr ⟨w, h1, by simp [Instr.format], .inl ⟨_, rfl⟩⟩
  | afEmpty =>
    obtain ⟨w, _, h1, _, h3⟩ := onAfLength_next h
    cases h3
    exact .inr ⟨w, h1, by simp [Instr.format], .inl ⟨_, rfl⟩⟩
  | afBody _ =>
    obtain ⟨w, _, h1, _, h3⟩ := onAfLength_next h
    rcases advance_map_next h3 with ⟨v, _, h5⟩ | ⟨f, _, h5⟩
    · exact .inr ⟨w, h1, by simp [Instr.format], .inl ⟨_, h5⟩⟩
    · exact .inr ⟨w, h1, by simp [Instr.format], .inr ⟨f, h5⟩⟩
  | afPcr | afOpcr | afSpliceCountdown | afPrivateData | afExtension =>
    obtain ⟨w, _, _, h1, _, h3⟩ := onSubfields_next h
    rcases advance_map_next h3 with ⟨v, _, h5⟩ | ⟨f, _, h5⟩
    · exact .inr ⟨w, h1, by simp [Instr.format], .inl ⟨_, h5⟩⟩
    · exact .inr ⟨w, h1, by simp [Instr.format], .inr ⟨f, h5⟩⟩
  | extLtw | extPiecewiseRate | extSeamlessSplice =>
    obtain ⟨w, _, _, _, h1, _, h3⟩ := onExtension_next h
    rcases advance_map_next h3 with ⟨v, _, h5⟩ | ⟨f, _, h5⟩
    · exact .inr ⟨w, h1, by simp [Instr.format], .inl ⟨_, h5⟩⟩
    · exact .inr ⟨w, h1, by simp [Instr.format], .inr ⟨f, h5⟩⟩

/-! ### The step at each stage -/

theorem step_header (hf : s.feed = some w) (hs : w.stage = .header) :
    step s = match decode .tsHeader32 (slice w.frame 0 4) with
      | .ok i => exec i s
      | .error e => .next (raiseUnspelled w e s) := by
  simp only [step, fetch, hf, hs, fetchHeader, Config.headerSize]
  cases decode .tsHeader32 (slice w.frame 0 4) <;> rfl

theorem step_afLength (hf : s.feed = some w) (hs : w.stage = .afLength h) (hl : 5 ≤ w.frame.length) :
    step s = if byteAt w.frame 4 = 0#8 then exec .afEmpty s else exec (.afBody (byteAt w.frame 4)) s := by
  have e : slice w.frame 4 5 = [byteAt w.frame 4] := by
    apply List.ext_getElem
    · simp; omega
    · intro k h1 h2
      have hk : k = 0 := by simpa using h2
      subst hk
      have := byteAt_slice w.frame 4 5 0 (by decide)
      rw [byteAt, List.getD_eq_getElem?_getD, List.getElem?_eq_getElem h1, Option.getD_some] at this
      rw [this]
      rfl
  simp only [step, fetch, hf, hs, fetchAfLength, Config.afLengthIndex, e, decode, decodeAfLength]
  by_cases h0 : byteAt w.frame 4 = 0#8 <;> simp [h0]

theorem step_subfields (hf : s.feed = some w) (hs : w.stage = .subfields h b) :
    step s =
      if b.todo[4] then exec .afPcr s
      else if b.todo[3] then exec .afOpcr s
      else if b.todo[2] then exec .afSpliceCountdown s
      else if b.todo[1] then exec .afPrivateData s
      else if b.todo[0] then exec .afExtension s
      else .next (closeBody w h b s) := by
  simp only [step, fetch, hf, hs, fetchSubfield, decode, decodeAfFlags]
  cases b.todo[4] <;> cases b.todo[3] <;> cases b.todo[2] <;> cases b.todo[1] <;> cases b.todo[0] <;> rfl

theorem step_extension (hf : s.feed = some w) (hs : w.stage = .extension h b x) :
    step s =
      if x.todo[7] then exec .extLtw s
      else if x.todo[6] then exec .extPiecewiseRate s
      else if x.todo[5] then exec .extSeamlessSplice s
      else .next (closeExtension w h b x s) := by
  simp only [step, fetch, hf, hs, fetchExtension, decode, decodeAfextFlags]
  cases x.todo[7] <;> cases x.todo[6] <;> cases x.todo[5] <;> rfl

theorem step_assembled {rec : TsPacket} (hf : s.feed = some w) (hs : w.stage = .assembled rec) :
    step s = .next (finishFrame w rec s) := by
  simp [step, fetch, hf, hs]

theorem raiseUnspelled_eq (w : FeedWork) (e : DecodeError) (s : State) :
    ∃ k f, raiseUnspelled w e s = raise w k f s ∧ k ≠ .allocationError := by
  unfold raiseUnspelled
  split
  · exact ⟨_, _, rfl, by simp⟩
  · exact ⟨_, _, rfl, by simp⟩

/-- Every step that answers a next state: idle, a command taken off the queue, or a FEED moving on, raising an error,
or emitting a record. -/
theorem step_next_cases (h : step s = .next t) :
    (s.feed = none ∧ s.pending = [] ∧ t = s) ∨
    (∃ cmd rest, s.feed = none ∧ s.pending = cmd :: rest ∧
      ((cmd.code = 0x00#8 ∧ t = { { s with pending := rest }.emit (.done .ok) with buffer := [] }) ∨
       (cmd.code = 0x01#8 ∧ t = beginFeed cmd.operand { s with pending := rest }))) ∨
    (∃ w, s.feed = some w ∧
      ((∃ st, t = s.setStage w st) ∨ (∃ k f, t = raise w k f s ∧ k ≠ .allocationError) ∨
        ∃ rec, w.stage = .assembled rec ∧ t = finishFrame w rec s)) := by
  cases hf : s.feed with
  | none =>
    simp only [step, fetch, hf, fetchCommand] at h
    cases hp : s.pending with
    | nil => simp only [hp] at h; cases h; exact .inl ⟨rfl, rfl, rfl⟩
    | cons cmd rest =>
      refine .inr (.inl ⟨cmd, rest, rfl, rfl, ?_⟩)
      simp only [hp, decode, decodeHostCmd] at h
      by_cases h0 : cmd.code = 0x00#8
      · simp only [h0, if_true] at h
        rcases exec_next_cases h with ⟨_, ⟨_, h3⟩ | ⟨_, h3, _⟩⟩ | ⟨w, h3, _⟩
        · exact .inl ⟨h0, h3⟩
        · cases h3
        · simp at h3
      · by_cases h1 : cmd.code = 0x01#8
        · simp only [h1, if_true] at h
          rcases exec_next_cases h with ⟨_, ⟨h3, _⟩ | ⟨_, h3, h4⟩⟩ | ⟨w, h3, _⟩
          · simp at h3
          · simp at h3
            subst h3
            exact .inr ⟨h1, h4⟩
          · simp at h3
        · simp [h0, h1] at h
  | some w =>
    refine .inr (.inr ⟨w, rfl, ?_⟩)
    have done : ∀ i, exec i s = .next t →
        (∃ st, t = s.setStage w st) ∨ (∃ k f, t = raise w k f s ∧ k ≠ .allocationError) := by
      intro i hi
      rcases exec_next_cases hi with ⟨h1, _⟩ | ⟨w', h1, _, h4⟩
      · simp [hf] at h1
      · rw [hf] at h1
        cases h1
        rcases h4 with h4 | ⟨f, h4⟩
        · exact .inl h4
        · exact .inr ⟨_, f, h4, by simp⟩
    simp only [step, fetch, hf] at h
    cases hst : w.stage with
    | header =>
      simp only [hst, fetchHeader] at h
      cases hd : decode .tsHeader32 (slice w.frame 0 Config.headerSize) with
      | ok i => simp only [hd] at h; exact (done i h).elim .inl (fun h => .inr (.inl h))
      | error e => simp only [hd] at h; cases h; exact .inr (.inl (raiseUnspelled_eq w e s))
    | afLength _ =>
      simp only [hst, fetchAfLength] at h
      cases hd : decode .afLength8 (slice w.frame Config.afLengthIndex (Config.afLengthIndex + 1)) with
      | ok i => simp only [hd] at h; exact (done i h).elim .inl (fun h => .inr (.inl h))
      | error e => simp only [hd] at h; cases h; exact .inr (.inl (raiseUnspelled_eq w e s))
    | subfields _ b =>
      simp only [hst, fetchSubfield] at h
      cases hd : decode .afFlags8 [b.todo] with
      | ok i => simp only [hd] at h; exact (done i h).elim .inl (fun h => .inr (.inl h))
      | error e => simp only [hd] at h; cases h; exact .inl ⟨_, rfl⟩
    | extension _ _ x =>
      simp only [hst, fetchExtension] at h
      cases hd : decode .afextFlags8 [x.todo] with
      | ok i => simp only [hd] at h; exact (done i h).elim .inl (fun h => .inr (.inl h))
      | error e => simp only [hd] at h; cases h; exact .inl ⟨_, rfl⟩
    | assembled rec =>
      simp only [hst] at h
      cases h
      exact .inr (.inr ⟨rec, rfl, rfl⟩)

end Sys2Proof.Machine
end

