-- ==== Sys2Proof/Laws/Transaction.lean ====
section
/-!
SUPPORT. Inversion of the pseudocode's parts: what a decode that succeeds has read, part by part (R140, R146).
-/
namespace Sys2Proof.Machine

variable {α β : Type} {F : List Byte} {afEnd c c' : Nat}

@[simp] theorem andThen_ok (v : α) (c : Nat) (k : α → Nat → Except FieldId β) : andThen (.ok (v, c)) k = k v c := rfl

@[simp] theorem andThen_error (f : FieldId) (k : α → Nat → Except FieldId β) : andThen (.error f) k = .error f := rfl

theorem of_andThen_ok {r : Except FieldId (α × Nat)} {k : α → Nat → Except FieldId β} {x : β}
    (h : andThen r k = .ok x) : ∃ v c, r = .ok (v, c) ∧ k v c = .ok x := by
  cases r with
  | error e => cases h
  | ok a => exact ⟨a.1, a.2, rfl, h⟩

@[simp] theorem decodeOptional_false (c : Nat) (rd : Nat → Except FieldId (α × Nat)) :
    decodeOptional false c rd = .ok (none, c) := rfl

/-- An optional part that is decoded: its flag is 1 and its reader answered, or its flag is 0 and it was skipped. -/
theorem of_decodeOptional_ok {flag : Bool} {rd : Nat → Except FieldId (α × Nat)} {o : Option α}
    (h : decodeOptional flag c rd = .ok (o, c')) :
    (flag = true ∧ ∃ v, rd c = .ok (v, c') ∧ o = some v) ∨ (flag = false ∧ o = none ∧ c' = c) := by
  cases flag with
  | false => cases h; exact .inr ⟨rfl, rfl, rfl⟩
  | true =>
    unfold decodeOptional at h
    cases hr : rd c with
    | error e => simp [hr] at h
    | ok r => simp [hr] at h; exact .inl ⟨rfl, r.1, by rw [← h.2], h.1.symm⟩

/-- The extension of R152, part by part. -/
theorem of_decodeExtension_ok {e : AFExtension} (h : decodeExtension F afEnd c = .ok (e, c')) :
    ∃ c1 c2, c + 2 ≤ afEnd ∧ c + 2 ≤ F.length ∧ e.length = byteAt F c ∧
      decodeOptional (byteAt F (c + 1))[7] (c + 2) (readLtw F afEnd) = .ok (e.ltw, c1) ∧
      decodeOptional (byteAt F (c + 1))[6] c1 (readPiecewiseRate F afEnd) = .ok (e.piecewiseRate, c2) ∧
      decodeOptional (byteAt F (c + 1))[5] c2 (readSeamlessSplice F afEnd) = .ok (e.seamlessSplice, c') := by
  unfold decodeExtension at h
  obtain ⟨ex, c0, h0, h⟩ := of_andThen_ok h
  obtain ⟨l, c1, h1, h⟩ := of_andThen_ok h
  obtain ⟨p, c2, h2, h⟩ := of_andThen_ok h
  obtain ⟨ss, c3, h3, h⟩ := of_andThen_ok h
  obtain ⟨g1, g2, g3⟩ := readExtensionHeader_ok_iff.mp h0
  cases h
  cases g3
  exact ⟨c1, c2, g1, g2, rfl, h1, h2, h3⟩

/-- The body of R140, part by part. -/
theorem of_decodeBody_ok {a : Byte} {b : AFBody} (h : decodeBody F afEnd a = .ok (b, c')) :
    ∃ c1 c2 c3 c4,
      decodeOptional a[4] 6 (fun c => readClockRef F afEnd c .pcr) = .ok (b.pcr, c1) ∧
      decodeOptional a[3] c1 (fun c => readClockRef F afEnd c .opcr) = .ok (b.opcr, c2) ∧
      decodeOptional a[2] c2 (readSpliceCountdown F afEnd) = .ok (b.spliceCountdown, c3) ∧
      decodeOptional a[1] c3 (readPrivateData F afEnd) = .ok (b.privateData, c4) ∧
      decodeOptional a[0] c4 (decodeExtension F afEnd) = .ok (b.extension, c') ∧
      b.pcrFlag = a[4] ∧ b.opcrFlag = a[3] ∧ b.splicingPointFlag = a[2] ∧ b.transportPrivateDataFlag = a[1] ∧
      b.adaptationFieldExtensionFlag = a[0] := by
  unfold decodeBody at h
  obtain ⟨p, c1, h1, h⟩ := of_andThen_ok h
  obtain ⟨o, c2, h2, h⟩ := of_andThen_ok h
  obtain ⟨sc, c3, h3, h⟩ := of_andThen_ok h
  obtain ⟨pd, c4, h4, h⟩ := of_andThen_ok h
  obtain ⟨e, c5, h5, h⟩ := of_andThen_ok h
  cases h
  exact ⟨c1, c2, c3, c4, h1, h2, h3, h4, h5, rfl, rfl, rfl, rfl, rfl⟩

end Sys2Proof.Machine
end

