-- ==== Sys2Proof/Tests/Slice0.lean ====
section
/-!
SUPPORT. Tests. Every expected value is from the spec: 95_test_vectors.md (its vector is named), 30_encoding.md, or the
corner case of the rule named. The witnesses at the end meet the hypotheses of the obligations, clause by clause.
-/
namespace Sys2Proof.Tests

/- One kernel thread at a time: each evaluation of a 188-byte frame asks for a large stack. -/
set_option Elab.async false

open Sys2Proof.Machine

/-! ### Fixtures -/

/-- A frame of section 4 of 95_test_vectors.md: it starts `47 40 64 30`; the bytes not listed are 00. -/
def afFrame (tail : List Byte) : List Byte := frameStarting ([0x47#8, 0x40#8, 0x64#8, 0x30#8] ++ tail)

/-- The header of those frames: pusi 1, pid 100, afc 3 (W-1's reading, AF-1). -/
def afHeader : Header := ⟨⟨false, true, false, 100#13, 0#2, 0#4⟩, 0b11#2⟩

/-- The valid frame V of section 2: `47 41 00 10` (W-1). -/
def frameV : List Byte := frameStarting [0x47#8, 0x41#8, 0x00#8, 0x10#8]

/-- The FEED of the one frame `F`, at stage `st`. -/
def workAt (F : List Byte) (st : Stage) : FeedWork := feedOfFrame State.reset F st

def stateAt (F : List Byte) (st : Stage) : State := { State.reset with feed := some (workAt F st) }

/-- A body decode with cursor `c` in a region that ends at `e`, flags byte `a`. -/
def bodyAt (a : Byte) (c e : Nat) : BodyWork := { plainBody a with length := BitVec.ofNat 8 (e - 5), afEnd := e, cursor := c }

/-- An extension decode with flags byte `x`. -/
def extAt (x : Byte) : ExtWork := { length := 0#8, todo := x, ltw := none, piecewiseRate := none, seamlessSplice := none }

def next? : Host.Outcome State Fault Refusal → Option State
  | .next s => some s
  | _ => none

/-- The body decode a structure leaves, if it leaves one. -/
def bodyAfter (i : Instr) (s : State) : Option BodyWork :=
  (next? (exec i s)).bind fun t => t.feed.bind fun w =>
    match w.stage with
    | .subfields _ b => some b
    | .extension _ b _ => some b
    | _ => none

/-- The extension decode a structure leaves, if it leaves one. -/
def extAfter (i : Instr) (s : State) : Option ExtWork :=
  (next? (exec i s)).bind fun t => t.feed.bind fun w =>
    match w.stage with
    | .extension _ _ x => some x
    | _ => none

/-- The record a structure completes, if it completes one. -/
def recordAfter (i : Instr) (s : State) : Option TsPacket :=
  (next? (exec i s)).bind fun t => t.feed.bind fun w =>
    match w.stage with
    | .assembled r => some r
    | _ => none

/-- The events of an instruction, if it answers a next state. -/
def outputAfter (i : Instr) (s : State) : Option (List Event) := (next? (exec i s)).map State.output

/-- The adaptation field of a frame, if it has one and assembles. -/
def afOf (F : List Byte) : Option AdaptationField := (assemble F).toOption.bind TsPacket.adaptationField

def payloadOf (F : List Byte) : Option PayloadView := (assemble F).toOption.bind TsPacket.payload

def errorOf (F : List Byte) : Option Raised :=
  match assemble F with
  | .error e => some e
  | .ok _ => none

/-! ### WellFormed -/

/-- A length byte of 0 selects AF_EMPTY, so `afBody 0` is spelled by nothing (R75). -/
theorem test_afBody_zero_ill_formed : (Instr.afBody 0#8).wellFormed = false := by decide

theorem test_afBody_255_well_formed : (Instr.afBody 255#8).wellFormed = true := by decide

/-! ### Decoding: words written out from 30_encoding.md -/

def decoded (fmt : Format) (bytes : List Byte) : Option Instr := (decode fmt bytes).toOption

/-- PA-1: `47 00 21 00`. -/
theorem test_decode_pktNone :
    decoded .tsHeader32 [0x47#8, 0x00#8, 0x21#8, 0x00#8] = some (.pktNone ⟨false, false, false, 33#13, 0#2, 0#4⟩) := by
  decide

/-- W-1: `47 41 00 10`. -/
theorem test_decode_pktPayload :
    decoded .tsHeader32 [0x47#8, 0x41#8, 0x00#8, 0x10#8] =
      some (.pktPayload ⟨false, true, false, 256#13, 0#2, 0#4⟩) := by
  decide

/-- HD-3: `47 A0 00 2A`. -/
theorem test_decode_pktAf :
    decoded .tsHeader32 [0x47#8, 0xA0#8, 0x00#8, 0x2A#8] = some (.pktAf ⟨true, false, true, 0#13, 0#2, 10#4⟩) := by
  decide

/-- HD-2: `47 FF FF FF`. -/
theorem test_decode_pktAfPayload :
    decoded .tsHeader32 [0x47#8, 0xFF#8, 0xFF#8, 0xFF#8] =
      some (.pktAfPayload ⟨true, true, true, 8191#13, 3#2, 15#4⟩) := by
  decide

/-- HD-6: the other first bytes. -/
theorem test_decode_bad_sync :
    decoded .tsHeader32 [0x46#8, 0x41#8, 0x00#8, 0x10#8] = none ∧
      decoded .tsHeader32 [0xB8#8, 0x41#8, 0x00#8, 0x10#8] = none := by
  decide

/-- R90. -/
theorem test_decode_commands :
    decoded .hostCmd [0x00#8] = some .reset ∧ decoded .hostCmd [0x01#8, 0xAA#8] = some (.feed [0xAA#8]) ∧
      decoded .hostCmd [0x02#8] = none := by
  decide

/-- R63, R75. -/
theorem test_decode_length :
    decoded .afLength8 [0x00#8] = some .afEmpty ∧ decoded .afLength8 [0xB8#8] = some (.afBody 0xB8#8) := by
  decide

/-- R64, R74: the first set bit of A[4], A[3], A[2], A[1], A[0]. -/
theorem test_decode_flags :
    decoded .afFlags8 [0xFF#8] = some .afPcr ∧ decoded .afFlags8 [0x0F#8] = some .afOpcr ∧
      decoded .afFlags8 [0x07#8] = some .afSpliceCountdown ∧ decoded .afFlags8 [0x03#8] = some .afPrivateData ∧
      decoded .afFlags8 [0x01#8] = some .afExtension ∧ decoded .afFlags8 [0xE0#8] = none := by
  decide

/-- R68, R74: the first set bit of X[7], X[6], X[5]. -/
theorem test_decode_extension_flags :
    decoded .afextFlags8 [0xE0#8] = some .extLtw ∧ decoded .afextFlags8 [0x60#8] = some .extPiecewiseRate ∧
      decoded .afextFlags8 [0x3F#8] = some .extSeamlessSplice ∧ decoded .afextFlags8 [0x1F#8] = none := by
  decide

/-- The opcode table's rows, each by its match value. -/
theorem test_decodeTableWord :
    decodeTableWord 8 0x00 = some .reset ∧ decodeTableWord 8 0x01 = some (.feed []) ∧
      decodeTableWord 32 0x47000010 = some (.pktPayload ⟨false, false, false, 0#13, 0#2, 0#4⟩) ∧
      decodeTableWord 32 0x47000030 = some (.pktAfPayload ⟨false, false, false, 0#13, 0#2, 0#4⟩) ∧
      decodeTableWord 8 0xB7 = some (.afBody 0xB7#8) ∧ decodeTableWord 8 0x10 = some .afPcr ∧
      decodeTableWord 8 0x04 = some .afSpliceCountdown ∧ decodeTableWord 8 0x80 = some .extLtw ∧
      decodeTableWord 8 0x20 = some .extSeamlessSplice ∧ decodeTableWord 32 0x46000010 = none := by
  decide

/-- The very next step runs the placed word. -/
theorem test_withFetchWord_header :
    (next? (step (State.reset.withFetchWord 32 0x47410010))).bind (fun t => t.feed.map FeedWork.stage) =
      (next? (exec (.pktPayload ⟨false, true, false, 256#13, 0#2, 0#4⟩)
        (State.reset.withFetchWord 32 0x47410010))).bind (fun t => t.feed.map FeedWork.stage) := by
  decide +kernel

theorem test_withFetchWord_flag :
    (next? (step (State.reset.withFetchWord 8 0x04))).bind (fun t => t.feed.map FeedWork.stage) =
      some (.subfields plainHeader { plainBody 0x04#8 with spliceCountdown := some 0, cursor := 7, todo := 0#8 }) := by
  decide +kernel

/-! ### Host commands -/

/-- FR-10's RESET: B of 50 bytes is emptied, and one `Done(OK)` comes out. -/
theorem test_reset :
    next? (exec .reset { State.reset with buffer := List.replicate 50 0x47#8 }) =
      some { State.reset with output := [.done .ok] } := by
  decide +kernel

/-- FR-3: 100 bytes and 87 bytes give B of 187 bytes and no record. -/
theorem test_feed_fills :
    (next? (exec (.feed (List.replicate 87 0#8)) { State.reset with buffer := List.replicate 100 0x47#8 })).map
      (fun t => (t.buffer.length, t.feed.isSome, t.output)) = some (187, false, [.done .ok]) := by
  decide +kernel

/-- FR-8's first frame: 10 bytes of B and 178 of the chunk's 600. -/
theorem test_feed_cuts :
    (next? (exec (.feed (List.replicate 600 0#8)) { State.reset with buffer := List.replicate 10 0x47#8 })).bind
      State.feed =
      some
        { saved := List.replicate 10 0x47#8
          chunk := List.replicate 600 0#8
          cur := 178
          frameIndex := 0
          frame := List.replicate 10 0x47#8 ++ List.replicate 178 0#8
          stage := .header } := by
  decide +kernel

/-! ### Packet kinds -/

/-- PA-1. -/
theorem test_pktNone :
    (recordAfter (.pktNone ⟨false, false, false, 33#13, 0#2, 0#4⟩) (stateAt frameV .header)).map
      (fun r => (r.pid, r.adaptationFieldControl, r.adaptationField, r.payload)) = some (33#13, 0#2, none, none) := by
  decide +kernel

/-- W-1. -/
theorem test_pktPayload :
    (recordAfter (.pktPayload ⟨false, true, false, 256#13, 0#2, 0#4⟩) (stateAt frameV .header)).map
      (fun r => (r.payloadUnitStartIndicator, r.pid, r.adaptationField, r.payload)) =
      some (true, 256#13, none, some ⟨5, 183⟩) := by
  decide +kernel

/-- R185: DECODE_AF comes next. -/
theorem test_pktAf :
    (next? (exec (.pktAf afHeader.fields) (stateAt frameV .header))).bind (fun t => t.feed.map FeedWork.stage) =
      some (.afLength ⟨afHeader.fields, 0b10#2⟩) := by
  decide +kernel

/-- R186: DECODE_AF comes next. -/
theorem test_pktAfPayload :
    (next? (exec (.pktAfPayload afHeader.fields) (stateAt frameV .header))).bind (fun t => t.feed.map FeedWork.stage) =
      some (.afLength afHeader) := by
  decide +kernel

/-! ### Adaptation field -/

/-- AF-1. -/
theorem test_afEmpty :
    (recordAfter .afEmpty (stateAt (afFrame [0x00#8]) (.afLength afHeader))).map
      (fun r => (r.adaptationField, r.payload)) = some (some ⟨0#8, none⟩, some ⟨5, 183⟩) := by
  decide +kernel

/-- AF-2. -/
theorem test_afBody :
    bodyAfter (.afBody 0x01#8) (stateAt (afFrame [0x01#8, 0x80#8]) (.afLength afHeader)) =
      some (bodyAt 0x80#8 6 6) := by
  decide +kernel

/-- AF-20. -/
theorem test_afBody_too_long :
    outputAfter (.afBody 0xB8#8) (stateAt (afFrame [0xB8#8]) (.afLength afHeader)) =
      some [.done (.err .malformedFieldError 0 .afLength)] := by
  decide +kernel

/-- AF-6. -/
theorem test_afPcr :
    (bodyAfter .afPcr (stateAt (afFrame [0x07#8, 0x10#8, 0x12#8, 0x34#8, 0x56#8, 0x78#8, 0xFF#8, 0x9A#8])
      (.subfields afHeader (bodyAt 0x10#8 6 12)))).map (fun b => (b.pcr, b.cursor)) =
      some (some ⟨610839793#33, 410#9⟩, 12) := by
  decide +kernel

/-- AF-8. -/
theorem test_afPcr_past_region :
    outputAfter .afPcr (stateAt (afFrame [0x01#8, 0x10#8]) (.subfields afHeader (bodyAt 0x10#8 6 6))) =
      some [.done (.err .malformedFieldError 0 .pcr)] := by
  decide +kernel

/-- AF-7: the OPCR follows the PCR. -/
theorem test_afOpcr :
    (bodyAfter .afOpcr (stateAt (afFrame [0x0D#8, 0x18#8, 0x00#8, 0x00#8, 0x00#8, 0x01#8, 0x80#8, 0x00#8, 0x12#8,
      0x34#8, 0x56#8, 0x78#8, 0xFF#8, 0x9A#8]) (.subfields afHeader (bodyAt 0x08#8 12 18)))).map
      (fun b => (b.pcr, b.opcr, b.cursor)) = some (none, some ⟨610839793#33, 410#9⟩, 18) := by
  decide +kernel

/-- AF-9 and AF-10. -/
theorem test_afSpliceCountdown :
    (bodyAfter .afSpliceCountdown (stateAt (afFrame [0x02#8, 0x04#8, 0xFF#8])
      (.subfields afHeader (bodyAt 0x04#8 6 7)))).map (fun b => (b.spliceCountdown, b.cursor)) = some (some (-1), 7) ∧
    (bodyAfter .afSpliceCountdown (stateAt (afFrame [0x02#8, 0x04#8, 0x80#8])
      (.subfields afHeader (bodyAt 0x04#8 6 7)))).map BodyWork.spliceCountdown = some (some (-128)) := by
  decide +kernel

/-- AF-12. -/
theorem test_afPrivateData :
    (bodyAfter .afPrivateData (stateAt (afFrame [0x05#8, 0x02#8, 0x03#8, 0xAA#8, 0xBB#8, 0xCC#8])
      (.subfields afHeader (bodyAt 0x02#8 6 10)))).map (fun b => (b.privateData, b.cursor)) =
      some (some [0xAA#8, 0xBB#8, 0xCC#8], 10) := by
  decide +kernel

/-- AF-13. -/
theorem test_afPrivateData_past_region :
    outputAfter .afPrivateData (stateAt (afFrame [0x04#8, 0x02#8, 0x03#8, 0xAA#8, 0xBB#8, 0xCC#8])
      (.subfields afHeader (bodyAt 0x02#8 6 9))) = some [.done (.err .malformedFieldError 0 .privateData)] := by
  decide +kernel

/-- AF-17's extension header: E = 3, X = 80. -/
theorem test_afExtension :
    extAfter .afExtension (stateAt (afFrame [0x05#8, 0x01#8, 0x03#8, 0x80#8, 0x80#8, 0x00#8])
      (.subfields afHeader (bodyAt 0x01#8 6 10))) = some { extAt 0x80#8 with length := 3#8 } := by
  decide +kernel

/-- AF-16. -/
theorem test_afExtension_no_flags :
    outputAfter .afExtension (stateAt (afFrame [0x02#8, 0x01#8, 0x00#8]) (.subfields afHeader (bodyAt 0x01#8 6 7))) =
      some [.done (.err .malformedFieldError 0 .extensionFlags)] := by
  decide +kernel

/-! ### Extension -/

/-- R157's corner case: `C0 01`. -/
theorem test_extLtw :
    extAfter .extLtw (stateAt (afFrame [0x05#8, 0x01#8, 0x03#8, 0x80#8, 0xC0#8, 0x01#8])
      (.extension afHeader (bodyAt 0x00#8 8 10) (extAt 0x80#8))) =
      some { extAt 0x00#8 with ltw := some ⟨true, 16385#15⟩ } := by
  decide +kernel

/-- AF-18: the top two bits of C0 are ignored. -/
theorem test_extPiecewiseRate :
    extAfter .extPiecewiseRate (stateAt (afFrame [0x06#8, 0x01#8, 0x04#8, 0x40#8, 0xC0#8, 0x00#8, 0x01#8])
      (.extension afHeader (bodyAt 0x00#8 8 11) (extAt 0x40#8))) =
      some { extAt 0x00#8 with piecewiseRate := some 1#22 } := by
  decide +kernel

/-- SS-2 (the carry) and SS-5 (b2 in place). -/
theorem test_extSeamlessSplice :
    extAfter .extSeamlessSplice (stateAt (afFrame [0x08#8, 0x01#8, 0x06#8, 0x20#8, 0x31#8, 0x80#8])
      (.extension afHeader (bodyAt 0x00#8 8 13) (extAt 0x20#8))) =
      some { extAt 0x00#8 with seamlessSplice := some ⟨3#4, 1073741824#33⟩ } ∧
    extAfter .extSeamlessSplice (stateAt (afFrame [0x08#8, 0x01#8, 0x06#8, 0x20#8, 0x30#8, 0x00#8, 0x02#8])
      (.extension afHeader (bodyAt 0x00#8 8 13) (extAt 0x20#8))) =
      some { extAt 0x00#8 with seamlessSplice := some ⟨3#4, 32768#33⟩ } := by
  decide +kernel

/-! ### Whole frames and whole FEEDs, by the pseudocode -/

/-- AF-28: every sub-field at once. -/
theorem test_every_subfield :
    afOf (afFrame [0x15#8, 0x1F#8, 0x00#8, 0x00#8, 0x00#8, 0x01#8, 0x80#8, 0x00#8, 0x12#8, 0x34#8, 0x56#8, 0x78#8,
        0xFF#8, 0x9A#8, 0x85#8, 0x02#8, 0xAA#8, 0xBB#8, 0x02#8, 0x80#8, 0xC0#8, 0x01#8]) =
      some ⟨0x15#8, some ⟨false, false, false, true, true, true, true, true, some ⟨3#33, 0#9⟩,
        some ⟨610839793#33, 410#9⟩, some (-123), some [0xAA#8, 0xBB#8],
        some ⟨2#8, some ⟨true, 16385#15⟩, none, none⟩⟩⟩ ∧
    payloadOf (afFrame [0x15#8, 0x1F#8, 0x00#8, 0x00#8, 0x00#8, 0x01#8, 0x80#8, 0x00#8, 0x12#8, 0x34#8, 0x56#8,
        0x78#8, 0xFF#8, 0x9A#8, 0x85#8, 0x02#8, 0xAA#8, 0xBB#8, 0x02#8, 0x80#8, 0xC0#8, 0x01#8]) =
      some ⟨26, 162⟩ := by
  decide +kernel

/-- AF-2: F[5] = 80 is discontinuity_indicator alone. -/
theorem test_discontinuity_flag :
    afOf (afFrame [0x01#8, 0x80#8]) =
      some ⟨1#8, some ⟨true, false, false, false, false, false, false, false, none, none, none, none, none⟩⟩ := by
  decide +kernel

/-- R64's table: F[5] = 40 is random_access_indicator, F[5] = 20 elementary_stream_priority_indicator. -/
theorem test_indicator_flags :
    afOf (afFrame [0x01#8, 0x40#8]) =
      some ⟨1#8, some ⟨false, true, false, false, false, false, false, false, none, none, none, none, none⟩⟩ ∧
    afOf (afFrame [0x01#8, 0x20#8]) =
      some ⟨1#8, some ⟨false, false, true, false, false, false, false, false, none, none, none, none, none⟩⟩ := by
  decide +kernel

/-- AF-25 and HD-7. -/
theorem test_errors :
    errorOf (afFrame [0xB7#8, 0x03#8, 0xB4#8]) = some ⟨.malformedFieldError, .extensionFlags⟩ ∧
      errorOf (frameStarting [0x46#8, 0x40#8, 0x64#8, 0x30#8, 0xFF#8]) = some ⟨.syncError, .noField⟩ := by
  decide +kernel

/-- FR-6: 377 bytes of copies of V give two records and leave one byte. -/
theorem test_feed_stride :
    (fun t : Transacted => (t.records.length, t.status, t.buffer)) (feedTransaction [] (frameV ++ frameV ++ [0x47#8])) =
      (2, .ok, [0x47#8]) := by
  decide +kernel

/-- FR-9: the second frame starts 46, so the FEED emits one record and B is restored. -/
theorem test_feed_aborts :
    (fun t : Transacted => (t.records.length, t.status, t.buffer))
      (feedTransaction (frameV.take 20) (frameV.drop 20 ++ 0x46#8 :: frameV.drop 1)) =
      (1, .err .syncError 1 .noField, frameV.take 20) := by
  decide +kernel

/-! ### Witnesses: concrete states and operands that meet an obligation's hypotheses, at the boundaries of its clauses -/

/-- A decode that succeeds with cursor `c`, from its evaluation. -/
theorem ok_of_cursor {α : Type} {r : Except FieldId (α × Nat)} {c : Nat} (h : r.toOption.map Prod.snd = some c) :
    ∃ v, r = .ok (v, c) := by
  match r, h with
  | .ok (v, _), rfl => exact ⟨v, rfl⟩

/-- A next state with a property, from its evaluation. -/
theorem next_of_any {o : Host.Outcome State Fault Refusal} (p : State → Bool) (h : (next? o).any p = true) :
    ∃ t, o = .next t ∧ p t = true := by
  match o, h with
  | .next t, h => exact ⟨t, rfl, h⟩

/-- The AF-2 frame: length 1, no sub-field. -/
def frame2 : List Byte := afFrame [0x01#8, 0x80#8]

/-- The W-3 frame: its first byte is 46. -/
def frame46 : List Byte := 0x46#8 :: frameV.drop 1

/-- A command of code `c`. -/
def command (c : Byte) : HostCommand := { code := c, operand := [] }

/-- The record of V. -/
def recordV : TsPacket := assembleRecord frameV ⟨⟨false, true, false, 256#13, 0#2, 0#4⟩, 0b01#2⟩ none

theorem assemble_frameV : assemble frameV = .ok recordV := by rfl

theorem witness_DecodeOfEncodeIsTheInstruction : (Instr.afBody 1#8).wellFormed = true := by decide +kernel

theorem witness_HeaderFieldsAreTheNumbersOfTheirBits : byteAt frameV 0 = 0x47#8 := by decide +kernel

theorem witness_DecoderAgreesWithTheOpcodeTable :
    decode .tsHeader32 [0x47#8, 0xA0#8, 0x00#8, 0x2A#8] = .ok (.pktAf ⟨true, false, true, 0#13, 0#2, 10#4⟩) ∧
      Format.afFlags8 ≠ .tsHeader32 ∧ decode .afFlags8 [0x0F#8] = .ok .afOpcr :=
  ⟨rfl, by decide +kernel, rfl⟩

theorem witness_StepRunsTheDecodedInstruction :
    (∃ s : State, s.feed = none ∧ s.pending = [command 0x00#8] ∧ decode .hostCmd [0x00#8] = .ok .reset) ∧
    (∃ (s : State) (w : FeedWork), s.feed = some w ∧ w.stage = .header ∧
      decode .tsHeader32 (slice w.frame 0 4) = .ok (.pktPayload ⟨false, true, false, 256#13, 0#2, 0#4⟩)) ∧
    (∃ (s : State) (w : FeedWork), s.feed = some w ∧ w.stage = .afLength afHeader ∧
      decode .afLength8 (slice w.frame 4 5) = .ok (.afBody 1#8)) ∧
    (∃ (s : State) (w : FeedWork) (b : BodyWork), s.feed = some w ∧ w.stage = .subfields afHeader b ∧
      decode .afFlags8 [b.todo] = .ok .afExtension) ∧
    (∃ (s : State) (w : FeedWork) (b : BodyWork) (x : ExtWork), s.feed = some w ∧ w.stage = .extension afHeader b x ∧
      decode .afextFlags8 [x.todo] = .ok .extLtw) :=
  ⟨⟨{ State.reset with pending := [command 0x00#8] }, rfl, rfl, rfl⟩,
    ⟨stateAt frameV .header, workAt frameV .header, rfl, rfl, rfl⟩,
    ⟨stateAt frame2 (.afLength afHeader), workAt frame2 (.afLength afHeader), rfl, rfl, rfl⟩,
    ⟨stateAt frame2 (.subfields afHeader (bodyAt 1#8 6 8)), workAt frame2 (.subfields afHeader (bodyAt 1#8 6 8)),
      bodyAt 1#8 6 8, rfl, rfl, rfl⟩,
    ⟨stateAt frame2 (.extension afHeader (bodyAt 0#8 8 10) (extAt 0x80#8)),
      workAt frame2 (.extension afHeader (bodyAt 0#8 8 10) (extAt 0x80#8)), bodyAt 0#8 8 10, extAt 0x80#8, rfl, rfl,
      rfl⟩⟩

theorem witness_IdleBlockDoesNothing : State.reset.feed = none ∧ State.reset.pending = [] := ⟨rfl, rfl⟩

/-- FR-14's code, the first that is refused, and the last. -/
theorem witness_UnknownCommandIsRefused :
    ∀ c ∈ [0x02#8, 0xFF#8], ∃ s : State, s.feed = none ∧ s.pending = [command c] ∧ c ≠ 0x00#8 ∧ c ≠ 0x01#8 := by
  intro c hc
  refine ⟨{ State.reset with pending := [command c] }, rfl, rfl, ?_⟩
  revert c
  decide +kernel

theorem witness_OutOfPlaceInstructionsStop :
    (∃ (s : State) (w : FeedWork), s.feed = some w) ∧
    (Instr.afPcr.format ≠ .hostCmd ∧ ∀ w, State.reset.feed = some w → w.stage.format ≠ some Instr.afPcr.format) ∧
    (∀ w, (stateAt frameV .header).feed = some w → w.stage.format ≠ some Instr.afPcr.format) :=
  ⟨⟨stateAt frameV .header, workAt frameV .header, rfl⟩, ⟨by decide +kernel, fun _ h => by cases h⟩,
    fun _ h => by cases h; decide⟩

theorem decodeHeader_afFrame (tail : List Byte) : decodeHeader (afFrame tail) = .ok afHeader := by
  simp [decodeHeader, afFrame, frameStarting, byteAt, headerFieldsOf, afControlOf, bits, afHeader]

/-- A state in the middle of a FEED that meets the invariant, one step before the record of AF-1 is formed. -/
def midFeed (length : Byte) : State := stateAt (afFrame [length]) (.afLength afHeader)

theorem midFeed_inv (length : Byte) : (midFeed length).Inv where
  memory := by
    refine ⟨Nat.zero_le _, ?_⟩
    intro w hw
    cases hw
    exact ⟨rfl, rfl, Nat.le_refl _, fun h => absurd rfl h⟩
  stage := by
    intro w hw
    cases hw
    exact ⟨decodeHeader_afFrame _, rfl⟩
  records := by
    intro r h
    cases h

theorem witness_EveryStepKeepsTheInvariant : (midFeed 0#8).Inv ∧ ∃ t, step (midFeed 0#8) = .next t :=
  ⟨midFeed_inv _, _, rfl⟩

theorem witness_StepsStopOnlyForUnknownCommands : (midFeed 1#8).Inv := midFeed_inv _

theorem witness_ResetCommandEmptiesTheBuffer :
    ({ State.reset with buffer := [0x47#8] } : State).feed = none := rfl

/-- FR-3 and FR-2: 100 bytes of B, and a chunk of 87 or 88. -/
theorem witness_FeedFillsOrCutsTheFirstFrame :
    ∃ s : State, s.feed = none ∧ s.buffer.length ≤ 187 ∧ s.buffer.length + (List.replicate 87 0#8).length < 188 ∧
      188 ≤ s.buffer.length + (List.replicate 88 0#8).length :=
  ⟨{ State.reset with buffer := List.replicate 100 0x47#8 }, rfl, by decide +kernel, by decide +kernel, by decide +kernel⟩

/-- Frame 0 with 88 of 276 chunk bytes behind it, and frame 1 of the same chunk at 88: 188 bytes left, then none. -/
theorem witness_EmittedRecordThenStrideOrRemainder :
    ∃ (s s' : State) (w w' : FeedWork), s.feed = some w ∧ w.stage = .assembled recordV ∧ w.frameIndex = 0 ∧
      w.cur = 88 ∧ 188 ≤ w.chunk.length - w.cur ∧
      s'.feed = some w' ∧ w'.stage = .assembled recordV ∧ w'.frameIndex ≠ 0 ∧ w'.cur + 188 = 276 ∧
      w'.chunk.length - 276 < 188 :=
  let w : FeedWork := { workAt frameV (.assembled recordV) with chunk := List.replicate 276 0#8, cur := 88 }
  ⟨{ State.reset with feed := some w }, { State.reset with feed := some { w with frameIndex := 1 } }, w,
    { w with frameIndex := 1 }, rfl, rfl, rfl, rfl, by decide +kernel, rfl, rfl, by decide +kernel, rfl, by decide +kernel⟩

theorem witness_PktNoneAndPktPayloadFormTheRecord :
    ∃ (s : State) (w : FeedWork), s.feed = some w ∧ w.stage = .header :=
  ⟨stateAt frameV .header, workAt frameV .header, rfl, rfl⟩

theorem witness_PktAfAndPktAfPayloadGoOnToTheLengthByte :
    ∃ (s : State) (w : FeedWork), s.feed = some w ∧ w.stage = .header :=
  ⟨stateAt frame2 .header, workAt frame2 .header, rfl, rfl⟩

theorem witness_AfEmptyFormsTheRecordWithoutBody :
    ∃ (s : State) (w : FeedWork), s.feed = some w ∧ w.stage = .afLength afHeader :=
  ⟨midFeed 0#8, _, rfl, rfl⟩

theorem witness_AfBodySetsTheRegionOrRaises :
    ∃ (s : State) (w : FeedWork), s.feed = some w ∧ w.stage = .afLength afHeader ∧ 6 ≤ w.frame.length ∧
      (183#8).toNat ≤ 183 ∧ 184 ≤ (184#8).toNat :=
  ⟨midFeed 0xB7#8, _, rfl, rfl, by decide +kernel, by decide +kernel, by decide +kernel⟩

/-- A sub-field of `n` bytes that ends exactly at the end of the region, on the 188-byte frame of AF-12. -/
theorem witness_subfield (n : Nat) (hn : n ≤ 180) :
    ∃ (s : State) (w : FeedWork) (b : BodyWork), s.feed = some w ∧ w.stage = .subfields afHeader b ∧
      b.cursor + n = b.afEnd ∧ b.afEnd ≤ w.frame.length := by
  refine ⟨stateAt frame2 (.subfields afHeader (bodyAt 0x1F#8 6 (6 + n))), _, bodyAt 0x1F#8 6 (6 + n), rfl, rfl, rfl, ?_⟩
  show 6 + n ≤ 188
  omega

theorem witness_PcrAndOpcrDecodeTheirClockReference :
    ∃ (s : State) (w : FeedWork) (b : BodyWork), s.feed = some w ∧ w.stage = .subfields afHeader b ∧
      b.cursor + 6 = b.afEnd ∧ b.afEnd ≤ w.frame.length := witness_subfield 6 (by decide +kernel)

theorem witness_SpliceCountdownIsSigned :
    ∃ (s : State) (w : FeedWork) (b : BodyWork), s.feed = some w ∧ w.stage = .subfields afHeader b ∧
      b.cursor + 1 = b.afEnd ∧ b.afEnd ≤ w.frame.length := witness_subfield 1 (by decide +kernel)

/-- AF-12 (P = 3) and AF-22 (P = 0), both ending at the end of the region. -/
theorem witness_PrivateDataIsTheDeclaredBytes :
    ∀ P ∈ [3#8, 0#8], ∃ (s : State) (w : FeedWork) (b : BodyWork), s.feed = some w ∧
      w.stage = .subfields afHeader b ∧ byteVal w.frame b.cursor = P.toNat ∧
      b.cursor + 1 + byteVal w.frame b.cursor = b.afEnd ∧ b.afEnd ≤ w.frame.length := by
  intro P hP
  refine ⟨stateAt (afFrame [0x05#8, 0x02#8, P]) (.subfields afHeader (bodyAt 0x02#8 6 (7 + P.toNat))), _,
    bodyAt 0x02#8 6 (7 + P.toNat), rfl, rfl, rfl, rfl, ?_⟩
  revert P
  decide +kernel

theorem witness_ExtensionReadsItsLengthAndFlags :
    ∃ (s : State) (w : FeedWork) (b : BodyWork), s.feed = some w ∧ w.stage = .subfields afHeader b ∧
      b.cursor + 2 = b.afEnd ∧ b.afEnd ≤ w.frame.length := witness_subfield 2 (by decide +kernel)

/-- An extension sub-field of `n` bytes that ends exactly at the end of the region. -/
theorem witness_extension (n : Nat) (hn : n ≤ 180) :
    ∃ (s : State) (w : FeedWork) (b : BodyWork) (x : ExtWork), s.feed = some w ∧ w.stage = .extension afHeader b x ∧
      b.cursor + n = b.afEnd ∧ b.afEnd ≤ w.frame.length := by
  refine ⟨stateAt frame2 (.extension afHeader (bodyAt 0#8 8 (8 + n)) (extAt 0xE0#8)), _, bodyAt 0#8 8 (8 + n),
    extAt 0xE0#8, rfl, rfl, rfl, ?_⟩
  show 8 + n ≤ 188
  omega

theorem witness_LtwDecodesValidAndOffset :
    ∃ (s : State) (w : FeedWork) (b : BodyWork) (x : ExtWork), s.feed = some w ∧ w.stage = .extension afHeader b x ∧
      b.cursor + 2 = b.afEnd ∧ b.afEnd ≤ w.frame.length := witness_extension 2 (by decide +kernel)

theorem witness_PiecewiseRateDecodesTwentyTwoBits :
    ∃ (s : State) (w : FeedWork) (b : BodyWork) (x : ExtWork), s.feed = some w ∧ w.stage = .extension afHeader b x ∧
      b.cursor + 3 = b.afEnd ∧ b.afEnd ≤ w.frame.length := witness_extension 3 (by decide +kernel)

theorem witness_SeamlessSpliceDecodesTheSourceFormula :
    ∃ (s : State) (w : FeedWork) (b : BodyWork) (x : ExtWork), s.feed = some w ∧ w.stage = .extension afHeader b x ∧
      b.cursor + 5 = b.afEnd ∧ b.afEnd ≤ w.frame.length := witness_extension 5 (by decide +kernel)

/-- For each width of the ten clauses, a region one byte too short; PRIVATE_DATA with P = 3 (AF-13) and EXTENSION_FLAGS
(AF-16) with the length byte inside the region. -/
theorem witness_PartsPastTheRegionRaiseTheirField :
    (∀ (s : State) (w : FeedWork), ∃ raised : FieldId → State, ∀ f, raised f =
      { s with buffer := w.saved, feed := none,
               output := s.output ++ [.done (.err .malformedFieldError w.frameIndex f)] }) ∧
    (∀ n ∈ [6, 1], ∃ (s : State) (w : FeedWork) (b : BodyWork), s.feed = some w ∧
      w.stage = .subfields afHeader b ∧ b.afEnd + 1 = b.cursor + n ∧ b.afEnd ≤ w.frame.length) ∧
    (∃ (s : State) (w : FeedWork) (b : BodyWork), s.feed = some w ∧ w.stage = .subfields afHeader b ∧
      b.cursor + 1 ≤ b.afEnd ∧ b.afEnd + 1 = b.cursor + 1 + byteVal w.frame b.cursor ∧ b.afEnd ≤ w.frame.length) ∧
    (∃ (s : State) (w : FeedWork) (b : BodyWork), s.feed = some w ∧ w.stage = .subfields afHeader b ∧
      b.afEnd = b.cursor + 1 ∧ b.afEnd ≤ w.frame.length) ∧
    (∀ n ∈ [2, 3, 5], ∃ (s : State) (w : FeedWork) (b : BodyWork) (x : ExtWork), s.feed = some w ∧
      w.stage = .extension afHeader b x ∧ b.afEnd + 1 = b.cursor + n ∧ b.afEnd ≤ w.frame.length) := by
  refine ⟨fun _ _ => ⟨_, fun _ => rfl⟩, ?_, ?_, ?_, ?_⟩
  · intro n hn
    refine ⟨stateAt frame2 (.subfields afHeader (bodyAt 0x1F#8 6 (5 + n))), _, bodyAt 0x1F#8 6 (5 + n), rfl, rfl, ?_, ?_⟩
    · show 5 + n + 1 = 6 + n
      omega
    · revert n
      decide +kernel
  · exact ⟨stateAt (afFrame [0x04#8, 0x02#8, 0x03#8]) (.subfields afHeader (bodyAt 0x02#8 6 9)), _, bodyAt 0x02#8 6 9,
      rfl, rfl, by decide +kernel, rfl, by decide +kernel⟩
  · exact ⟨stateAt frame2 (.subfields afHeader (bodyAt 0x01#8 6 7)), _, bodyAt 0x01#8 6 7, rfl, rfl, rfl, by decide +kernel⟩
  · intro n hn
    refine ⟨stateAt frame2 (.extension afHeader (bodyAt 0#8 8 (7 + n)) (extAt 0xE0#8)), _, bodyAt 0#8 8 (7 + n),
      extAt 0xE0#8, rfl, rfl, ?_, ?_⟩
    · show 7 + n + 1 = 8 + n
      omega
    · revert n
      decide +kernel

/-- The AF-14 extension, whose final cursor is the end of its region. -/
def frame14 : List Byte :=
  afFrame [0x0D#8, 0x01#8, 0x0B#8, 0xE0#8, 0xC0#8, 0x01#8, 0xFF#8, 0xFF#8, 0xFF#8, 0x2F#8, 0xFF#8, 0xFF#8, 0xFF#8, 0xFF#8]

theorem witness_ExtensionOptionsFollowTheirFlags : ∃ e, decodeExtension frame14 18 6 = .ok (e, 18) :=
  ok_of_cursor (by decide +kernel)

theorem witness_DecodedBodyStaysInItsRegion : 6 ≤ 18 ∧ ∃ body, decodeBody frame14 18 0x01#8 = .ok (body, 18) :=
  ⟨by decide, ok_of_cursor (by decide +kernel)⟩

/-- AF-26: the final cursor is 9, and the frame's bytes from there on are changed. -/
theorem witness_UnreadTailChangesNothing :
    ∃ F F' : List Byte, F'.length = F.length ∧ (∀ i, i < 9 → byteAt F' i = byteAt F i) ∧ byteAt F' 10 ≠ byteAt F 10 ∧
      ∃ body, decodeBody F 11 0x03#8 = .ok (body, 9) :=
  ⟨afFrame [0x06#8, 0x03#8, 0x00#8, 0x01#8, 0x00#8, 0x00#8],
    afFrame [0x06#8, 0x03#8, 0x00#8, 0x01#8, 0x00#8, 0xFF#8, 0xFF#8], rfl, by decide +kernel, by decide +kernel,
    ok_of_cursor (by decide +kernel)⟩

/-- AF-2 with another header and another payload: the two agree on F[4] and F[5] only. -/
theorem witness_AfDecodeReadsOnlyItsRegion :
    ∃ F F' : List Byte, F.length = 188 ∧ F'.length = 188 ∧ byteAt F' 3 ≠ byteAt F 3 ∧ byteAt F' 6 ≠ byteAt F 6 ∧
      ∀ i, 4 ≤ i → i < 5 + byteVal F 4 → byteAt F' i = byteAt F i := by
  refine ⟨frame2, frameStarting [0x46#8, 0#8, 0#8, 0#8, 0x01#8, 0x80#8, 0xFF#8], rfl, rfl, by decide +kernel, by decide +kernel, ?_⟩
  intro i h1 h2
  have h3 : i < 6 := h2
  obtain rfl | rfl : i = 4 ∨ i = 5 := by omega
  · rfl
  · rfl

/-- One pair of strings per clause: they differ in the ignored bits, and there only. -/
theorem witness_IgnoredBitsChangeNoValue :
    (byteAt [0#8, 0#8, 0#8, 0#8, 0x7E#8, 0#8] 4 &&& 0x81#8 = byteAt [0#8, 0#8, 0#8, 0#8, 0x00#8, 0#8] 4 &&& 0x81#8) ∧
    (byteAt [0xC0#8, 0#8, 1#8] 0 &&& 0x3F#8 = byteAt [0x00#8, 0#8, 1#8] 0 &&& 0x3F#8) ∧
    (byteAt [0x38#8, 0#8, 1#8, 0#8, 1#8] 0 &&& 0xF7#8 = byteAt [0x30#8, 0#8, 0#8, 0#8, 0#8] 0 &&& 0xF7#8 ∧
      byteAt [0x38#8, 0#8, 1#8, 0#8, 1#8] 2 &&& 0xFE#8 = byteAt [0x30#8, 0#8, 0#8, 0#8, 0#8] 2 &&& 0xFE#8 ∧
      byteAt [0x38#8, 0#8, 1#8, 0#8, 1#8] 4 &&& 0xFE#8 = byteAt [0x30#8, 0#8, 0#8, 0#8, 0#8] 4 &&& 0xFE#8) ∧
    (0x9F#8 &&& 0xE0#8 = 0x80#8 &&& 0xE0#8 ∧ (0x1F#8 : Byte) &&& 0xE0#8 = 0x00#8 &&& 0xE0#8) ∧
    (byteAt [2#8, 0x9F#8, 0#8, 1#8] 1 &&& 0xE0#8 = byteAt [2#8, 0x80#8, 0#8, 1#8] 1 &&& 0xE0#8 ∧
      ∀ i, i ≠ 1 → byteAt [2#8, 0x9F#8, 0#8, 1#8] i = byteAt [2#8, 0x80#8, 0#8, 1#8] i) := by
  refine ⟨by decide, by decide, by decide, by decide, by decide, ?_⟩
  intro i hi
  match i, hi with
  | 0, _ => rfl
  | 1, h => exact absurd rfl h
  | _ + 2, _ => rfl

/-- HD-6, and PA-6 (afc 2) with the first length that is too long. -/
theorem witness_SyncThenLengthAreCheckedFirst :
    byteAt frame46 0 ≠ 0x47#8 ∧
    ∃ F : List Byte, byteAt F 0 = 0x47#8 ∧ byteVal F 3 / 32 % 2 = 1 ∧ byteVal F 4 = 184 :=
  ⟨by decide +kernel, frameStarting [0x47#8, 0x40#8, 0x64#8, 0x20#8, 0xB8#8], by decide +kernel, by decide +kernel, by decide +kernel⟩

/-- PA-7 and PA-1. -/
theorem witness_WithoutAdaptationFieldByteFourIsIgnored :
    ∀ c ∈ [0x10#8, 0x00#8], ∃ F : List Byte, F.length = 188 ∧ byteAt F 0 = 0x47#8 ∧ byteVal F 3 / 32 % 2 = 0 ∧
      byteVal F 3 = c.toNat := by
  intro c hc
  refine ⟨frameStarting [0x47#8, 0x40#8, 0x64#8, c, 0xFF#8], rfl, rfl, ?_, rfl⟩
  revert c
  decide +kernel

/-- PA-1, PA-2, PA-3's header with AF-2's field, PA-4's kind, and PA-6's error. -/
theorem witness_PacketKindsGiveTheirRecords :
    (∀ afc : BitVec 2, ∃ h F, decodeHeader F = .ok h ∧ h.adaptationFieldControl = afc ∧ ∃ af, decodeAf F = .ok af) ∧
    (∃ h F, decodeHeader F = .ok h ∧ h.adaptationFieldControl[1] = true ∧ ∃ f, decodeAf F = .error f) ∧
    (∃ F r, (∃ h, decodeHeader F = .ok h) ∧ assemble F = .ok r) := by
  refine ⟨?_, ?_, ?_⟩
  · intro afc
    refine ⟨⟨⟨false, false, false, 0#13, 0#2, 0#4⟩, afc⟩,
      frameStarting [0x47#8, 0#8, 0#8, BitVec.ofNat 8 (afc.toNat * 16), 0x01#8, 0x80#8], ?_, rfl, ?_⟩
    · obtain rfl | rfl | rfl | rfl : afc = 0#2 ∨ afc = 1#2 ∨ afc = 2#2 ∨ afc = 3#2 := by revert afc; decide
      all_goals rfl
    · obtain rfl | rfl | rfl | rfl : afc = 0#2 ∨ afc = 1#2 ∨ afc = 2#2 ∨ afc = 3#2 := by revert afc; decide
      all_goals exact ⟨_, rfl⟩
  · exact ⟨_, afFrame [0xB8#8], rfl, rfl, _, rfl⟩
  · exact ⟨frameV, recordV, ⟨_, rfl⟩, assemble_frameV⟩

/-- V, and AF-2's body. -/
theorem witness_AssembledRecordsAreWhole :
    (frameV.length = 188 ∧ assemble frameV = .ok recordV) ∧ ∃ body, decodeBody frame2 6 0x80#8 = .ok (body, 6) :=
  ⟨⟨rfl, assemble_frameV⟩, ok_of_cursor (by decide +kernel)⟩

/-- V, and the AF-20 frame. -/
theorem witness_FrameDecodeIsAssemble :
    (∃ (s : State) (w : FeedWork) (r : TsPacket), s.feed = some w ∧ w.stage = .header ∧ w.frame.length = 188 ∧
      assemble w.frame = .ok r) ∧
    (∃ (s : State) (w : FeedWork) (e : Raised), s.feed = some w ∧ w.stage = .header ∧ w.frame.length = 188 ∧
      assemble w.frame = .error e) :=
  ⟨⟨stateAt frameV .header, workAt frameV .header, recordV, rfl, rfl, rfl, assemble_frameV⟩,
    ⟨stateAt (afFrame [0xB8#8]) .header, workAt (afFrame [0xB8#8]) .header, _, rfl, rfl, rfl, rfl⟩⟩

/-- FR-4: 187 bytes of B and one more. -/
theorem witness_FeedRunsToItsTransaction :
    ∃ s : State, s.feed = none ∧ s.buffer.length ≤ 187 ∧ s.pending = { code := 0x01#8, operand := [0#8] } :: [] :=
  ⟨{ State.reset with buffer := frameV.take 187, pending := [{ code := 0x01#8, operand := [0#8] }] }, rfl,
    by decide +kernel, rfl⟩

/-- FR-2: the one frame is V. -/
theorem witness_ErrorFreeFeedHasTheClosedForm :
    (frameV.take 100).length ≤ 187 ∧ (frameV.take 100 ++ frameV.drop 100).length / 188 = 1 ∧
    ∀ i, i < 1 → ∃ r, assemble (((frameV.take 100 ++ frameV.drop 100).drop (188 * i)).take 188) = .ok r := by
  rw [List.take_append_drop]
  refine ⟨by decide +kernel, by decide +kernel, ?_⟩
  intro i hi
  obtain rfl : i = 0 := by omega
  exact ⟨recordV, assemble_frameV⟩

/-- W-6 in small: V in chunks of 100, 0 and 88 bytes. -/
theorem witness_RecordsDoNotDependOnChunkBoundaries :
    ([] : List Byte).length ≤ 187 ∧
      (feedTransaction [] [frameV.take 100, [], frameV.drop 100].flatten).status = .ok := by
  decide +kernel

/-- FR-9. -/
theorem witness_FailedFeedRestoresTheBuffer :
    (frameV.take 20).length ≤ 187 ∧
      (feedTransaction (frameV.take 20) (frameV.drop 20 ++ frame46)).status = .err .syncError 1 .noField := by
  decide +kernel

/-- FR-2, and FR-4. -/
theorem witness_EmptyAndExactChunks :
    ∀ n ∈ [100, 187], (frameV.take n).length ≤ 187 ∧ (frameV.drop n).length = 188 - (frameV.take n).length ∧
      ∃ r, assemble (frameV.take n ++ frameV.drop n) = .ok r := by
  intro n hn
  rw [List.take_append_drop]
  refine ⟨?_, ?_, recordV, assemble_frameV⟩
  · revert n
    decide +kernel
  · revert n
    decide +kernel

theorem witness_EveryCommandEndsWithOneDone :
    ∃ s : State, s.feed = none ∧ s.buffer.length ≤ 187 ∧ s.pending.length = 2 ∧
      ∀ cmd ∈ s.pending, cmd.code = 0x00#8 ∨ cmd.code = 0x01#8 :=
  ⟨{ State.reset with pending := [command 0x00#8, command 0x01#8] }, rfl, by decide +kernel, rfl, by decide +kernel⟩

theorem witness_OutputOnlyGrows : ∃ t, step (midFeed 0xB8#8) = .next t := ⟨_, rfl⟩

theorem witness_FeedHoldsTheBufferAndTheQueue :
    (∃ w t w', (midFeed 0#8).feed = some w ∧ step (midFeed 0#8) = .next t ∧ t.feed = some w') ∧
    (∃ s t : State, s.feed = none ∧ step s = .next t ∧ s.pending ≠ []) :=
  ⟨⟨_, _, _, rfl, rfl, rfl⟩, { State.reset with pending := [command 0x00#8] }, _, rfl, rfl, by simp⟩

/-- Within a frame, and from frame 0 to frame 1 of a chunk of two. -/
theorem witness_FrameIsReadOnlyDuringItsDecode :
    (∃ w t w', (midFeed 0#8).feed = some w ∧ step (midFeed 0#8) = .next t ∧ t.feed = some w') ∧
    (∃ (s t : State) (w w' : FeedWork), s.feed = some w ∧ step s = .next t ∧ t.feed = some w' ∧
      w.stage = .assembled recordV ∧ w'.frameIndex = w.frameIndex + 1) :=
  let w : FeedWork := { workAt frameV (.assembled recordV) with chunk := frameV ++ frameV }
  let s : State := { State.reset with feed := some w }
  ⟨⟨_, _, _, rfl, rfl, rfl⟩,
    by
      obtain ⟨t, ht, h⟩ := next_of_any (o := step s) (fun t => t.feed.any fun w => w.frameIndex == 1) (by decide +kernel)
      cases hw : t.feed with
      | none => simp [hw] at h
      | some w' => exact ⟨s, t, w, w', rfl, ht, hw, rfl, by simpa [hw, w, workAt, feedOfFrame] using h⟩⟩

/-- A last record, and an error. -/
theorem witness_FeedEndsInSuccessOrRestoredBuffer :
    (∃ w t, (stateAt frameV (.assembled recordV)).feed = some w ∧
      step (stateAt frameV (.assembled recordV)) = .next t ∧ t.feed = none) ∧
    (∃ w t, (midFeed 0xB8#8).feed = some w ∧ step (midFeed 0xB8#8) = .next t ∧ t.feed = none) :=
  ⟨by
      obtain ⟨t, ht, h⟩ := next_of_any (o := step (stateAt frameV (.assembled recordV))) (fun t => t.feed.isNone)
        (by decide +kernel)
      exact ⟨_, t, rfl, ht, Option.isNone_iff_eq_none.mp h⟩,
    _, _, rfl, rfl, rfl⟩

/-- The ignored flag bits 1F and E0 left set: no row is selected any more. -/
theorem witness_ConsideredFlagsCloseTheirRecord :
    (∃ (s : State) (w : FeedWork) (b : BodyWork) (x : ExtWork), s.feed = some w ∧ w.stage = .extension afHeader b x ∧
      x.todo = 0x1F#8 ∧ x.todo &&& 0xE0#8 = 0#8) ∧
    (∃ (s : State) (w : FeedWork) (b : BodyWork), s.feed = some w ∧ w.stage = .subfields afHeader b ∧
      b.todo = 0xE0#8 ∧ b.todo &&& 0x1F#8 = 0#8) :=
  ⟨⟨stateAt frame2 (.extension afHeader (bodyAt 0#8 8 8) (extAt 0x1F#8)), _, bodyAt 0#8 8 8, extAt 0x1F#8, rfl, rfl,
    rfl, rfl⟩, stateAt frame2 (.subfields afHeader (bodyAt 0xE0#8 6 6)), _, bodyAt 0xE0#8 6 6, rfl, rfl, rfl, rfl⟩

theorem witness_SyncErrorRestoresTheBuffer :
    ∃ (s : State) (w : FeedWork), s.feed = some w ∧ w.stage = .header ∧ w.frame.length = 188 ∧
      byteAt w.frame 0 ≠ 0x47#8 :=
  ⟨stateAt frame46 .header, workAt frame46 .header, rfl, rfl, rfl, by decide +kernel⟩

theorem witness_AllocationAndFrameBoundsNeverReported :
    ∃ t j kind field, (midFeed 0xB8#8).Inv ∧ step (midFeed 0xB8#8) = .next t ∧
      Event.done (.err kind j field) ∈ t.output ∧ Event.done (.err kind j field) ∉ (midFeed 0xB8#8).output :=
  ⟨_, 0, .malformedFieldError, .afLength, midFeed_inv _, rfl, .head _, by decide +kernel⟩

end Sys2Proof.Tests
end

section
/-!
PROOFS. One step of a FEED, said once: which stage the decode of a frame goes on to and what was read to get there
(`Stage.Moves`), and that every step of a FEED is such a move, an error taken, or a record emitted (`step_feed_cases`).
-/
namespace Sys2Proof.Machine

/-- The decode of frame `F` goes on from one stage to the next: one constructor per decode structure, and one per
control action that closes a record (R120, R140, R180). -/
inductive Stage.Moves (F : List Byte) : Stage → Stage → Prop where
  | withoutAf {h : Header} (header : decodeHeader F = .ok h) (absent : h.adaptationFieldControl[1] = false) :
      Moves F .header (.assembled (assembleRecord F h none))
  | withAf {h : Header} (header : decodeHeader F = .ok h) (present : h.adaptationFieldControl[1] = true) :
      Moves F .header (.afLength h)
  | afEmpty {h : Header} (zero : byteAt F 4 = 0#8) :
      Moves F (.afLength h) (.assembled (assembleRecord F h (some { length := 0#8, body := none })))
  | afBody {h : Header} {b : BodyWork} (nonzero : byteAt F 4 ≠ 0#8) (start : readBodyStart F (byteAt F 4) = .ok b) :
      Moves F (.afLength h) (.subfields h b)
  | afPcr {h : Header} {b : BodyWork} {r} (selected : b.todo[4] = true)
      (read : readClockRef F b.afEnd b.cursor .pcr = .ok r) :
      Moves F (.subfields h b)
        (.subfields h { b with pcr := some r.1, cursor := r.2, todo := clearFlag b.todo 4 })
  | afOpcr {h : Header} {b : BodyWork} {r} (selected : b.todo[3] = true)
      (read : readClockRef F b.afEnd b.cursor .opcr = .ok r) :
      Moves F (.subfields h b)
        (.subfields h { b with opcr := some r.1, cursor := r.2, todo := clearFlag b.todo 3 })
  | afSpliceCountdown {h : Header} {b : BodyWork} {r} (selected : b.todo[2] = true)
      (read : readSpliceCountdown F b.afEnd b.cursor = .ok r) :
      Moves F (.subfields h b)
        (.subfields h { b with spliceCountdown := some r.1, cursor := r.2, todo := clearFlag b.todo 2 })
  | afPrivateData {h : Header} {b : BodyWork} {r} (selected : b.todo[1] = true)
      (read : readPrivateData F b.afEnd b.cursor = .ok r) :
      Moves F (.subfields h b)
        (.subfields h { b with privateData := some r.1, cursor := r.2, todo := clearFlag b.todo 1 })
  | afExtension {h : Header} {b : BodyWork} {r} (selected : b.todo[0] = true)
      (read : readExtensionHeader F b.afEnd b.cursor = .ok r) :
      Moves F (.subfields h b)
        (.extension h { b with cursor := r.2, todo := clearFlag b.todo 0 }
          { length := r.1.1, todo := r.1.2, ltw := none, piecewiseRate := none, seamlessSplice := none })
  | closeBody {h : Header} {b : BodyWork}
      (considered : b.todo[4] = false ∧ b.todo[3] = false ∧ b.todo[2] = false ∧ b.todo[1] = false ∧ b.todo[0] = false) :
      Moves F (.subfields h b)
        (.assembled (assembleRecord F h (some { length := b.length, body := some (bodyOf b) })))
  | extLtw {h : Header} {b : BodyWork} {x : ExtWork} {r} (selected : x.todo[7] = true)
      (read : readLtw F b.afEnd b.cursor = .ok r) :
      Moves F (.extension h b x)
        (.extension h { b with cursor := r.2 } { x with ltw := some r.1, todo := clearFlag x.todo 7 })
  | extPiecewiseRate {h : Header} {b : BodyWork} {x : ExtWork} {r} (selected : x.todo[6] = true)
      (read : readPiecewiseRate F b.afEnd b.cursor = .ok r) :
      Moves F (.extension h b x)
        (.extension h { b with cursor := r.2 } { x with piecewiseRate := some r.1, todo := clearFlag x.todo 6 })
  | extSeamlessSplice {h : Header} {b : BodyWork} {x : ExtWork} {r} (selected : x.todo[5] = true)
      (read : readSeamlessSplice F b.afEnd b.cursor = .ok r) :
      Moves F (.extension h b x)
        (.extension h { b with cursor := r.2 } { x with seamlessSplice := some r.1, todo := clearFlag x.todo 5 })
  | closeExtension {h : Header} {b : BodyWork} {x : ExtWork}
      (considered : x.todo[7] = false ∧ x.todo[6] = false ∧ x.todo[5] = false) :
      Moves F (.extension h b x)
        (.subfields h { b with extension := some { length := x.length, ltw := x.ltw,
                                                   piecewiseRate := x.piecewiseRate,
                                                   seamlessSplice := x.seamlessSplice } })

/-- What a step of the decode of `w`'s frame answers: a move of the stage, or an error taken. -/
def DecodeStep (w : FeedWork) (s : State) (o : Host.Outcome State Fault Refusal) : Prop :=
  (∃ st, Stage.Moves w.frame w.stage st ∧ o = .next (s.setStage w st)) ∨ ∃ k f, o = .next (raise w k f s)

variable {s : State} {w : FeedWork} {h : Header} {b : BodyWork} {x : ExtWork}

theorem decodeStep_of_moves {st st' : Stage} (hs : w.stage = st) (hm : Stage.Moves w.frame st st') :
    DecodeStep w s (.next (s.setStage w st')) :=
  .inl ⟨st', hs ▸ hm, rfl⟩

/-- A structure that ends in `advance` moves the stage if its reader answers, and raises its error if not. -/
theorem decodeStep_advance {β : Type} {st : Stage} {r : Except FieldId β} {g : β → Stage} (hs : w.stage = st)
    (hm : ∀ v, r = .ok v → Stage.Moves w.frame st (g v)) : DecodeStep w s (advance w (r.map g) s) := by
  cases r with
  | ok v => exact decodeStep_of_moves hs (hm v rfl)
  | error f => exact .inr ⟨_, f, rfl⟩

/-! ### The header -/

theorem slice_header {F : List Byte} (hF : 4 ≤ F.length) :
    slice F 0 4 = [byteAt F 0, byteAt F 1, byteAt F 2, byteAt F 3] := by
  match F, hF with
  | _ :: _ :: _ :: _ :: _, _ => rfl

/-- The header word selects a packet kind exactly where DECODE_HEADER answers (R75, R120, R121). -/
theorem decode_header_word {F : List Byte} (hF : 4 ≤ F.length) :
    (∃ h, decodeHeader F = .ok h ∧
      decode .tsHeader32 (slice F 0 4) = .ok (packetKind h.adaptationFieldControl h.fields)) ∨
    (byteAt F 0 ≠ 0x47#8 ∧ decode .tsHeader32 (slice F 0 4) = .error .syncMismatch) := by
  rw [slice_header hF]
  by_cases h0 : byteAt F 0 = 0x47#8
  · refine .inl ⟨⟨headerFieldsOf (byteAt F 1) (byteAt F 2) (byteAt F 3), afControlOf (byteAt F 3)⟩, ?_, ?_⟩
    · simp [decodeHeader, h0]
    · simp [decode, decodeTsHeader, h0]
  · exact .inr ⟨h0, by simp [decode, decodeTsHeader, h0]⟩

/-- The four packet kinds in one: without an adaptation field the record is formed, with one its length byte is next
(R183 to R186). -/
theorem exec_packetKind (hf : s.feed = some w) (hs : w.stage = .header) (h : Header) :
    exec (packetKind h.adaptationFieldControl h.fields) s = .next (s.setStage w
      (if h.adaptationFieldControl[1] then .afLength h else .assembled (assembleRecord w.frame h none))) := by
  obtain ⟨fields, afc⟩ := h
  rcases BitVec2_cases afc with rfl | rfl | rfl | rfl <;>
    simp [exec, execPktNone, execPktPayload, execPktAf, execPktAfPayload, onHeader_at hf hs]

/-! ### The step at each stage -/

theorem decodeStep_header (hf : s.feed = some w) (hs : w.stage = .header) (hF : 4 ≤ w.frame.length) :
    DecodeStep w s (step s) := by
  rw [step_header hf hs]
  rcases decode_header_word hF with ⟨h, hh, hd⟩ | ⟨_, hd⟩ <;> simp only [hd]
  · rw [exec_packetKind hf hs]
    cases hc : h.adaptationFieldControl[1]
    · exact decodeStep_of_moves hs (.withoutAf hh hc)
    · exact decodeStep_of_moves hs (.withAf hh hc)
  · exact .inr ⟨_, _, rfl⟩

theorem decodeStep_afLength (hf : s.feed = some w) (hs : w.stage = .afLength h) (hF : 5 ≤ w.frame.length) :
    DecodeStep w s (step s) := by
  rw [step_afLength hf hs hF]
  split
  · rw [exec, execAfEmpty, onAfLength_at hf hs]
    exact decodeStep_of_moves hs (.afEmpty ‹_›)
  · rw [exec, execAfBody, onAfLength_at hf hs]
    exact decodeStep_advance hs fun _ hr => .afBody ‹_› hr

theorem decodeStep_subfields (hf : s.feed = some w) (hs : w.stage = .subfields h b) : DecodeStep w s (step s) := by
  rw [step_subfields hf hs]
  split
  · rw [exec, execAfPcr, onSubfields_at hf hs]
    exact decodeStep_advance hs fun _ hr => .afPcr ‹_› hr
  split
  · rw [exec, execAfOpcr, onSubfields_at hf hs]
    exact decodeStep_advance hs fun _ hr => .afOpcr ‹_› hr
  split
  · rw [exec, execAfSpliceCountdown, onSubfields_at hf hs]
    exact decodeStep_advance hs fun _ hr => .afSpliceCountdown ‹_› hr
  split
  · rw [exec, execAfPrivateData, onSubfields_at hf hs]
    exact decodeStep_advance hs fun _ hr => .afPrivateData ‹_› hr
  split
  · rw [exec, execAfExtension, onSubfields_at hf hs]
    exact decodeStep_advance hs fun _ hr => .afExtension ‹_› hr
  · exact decodeStep_of_moves hs (.closeBody (by simp_all))

theorem decodeStep_extension (hf : s.feed = some w) (hs : w.stage = .extension h b x) : DecodeStep w s (step s) := by
  rw [step_extension hf hs]
  split
  · rw [exec, execExtLtw, onExtension_at hf hs]
    exact decodeStep_advance hs fun _ hr => .extLtw ‹_› hr
  split
  · rw [exec, execExtPiecewiseRate, onExtension_at hf hs]
    exact decodeStep_advance hs fun _ hr => .extPiecewiseRate ‹_› hr
  split
  · rw [exec, execExtSeamlessSplice, onExtension_at hf hs]
    exact decodeStep_advance hs fun _ hr => .extSeamlessSplice ‹_› hr
  · exact decodeStep_of_moves hs (.closeExtension (by simp_all))

/-- A step of a FEED always answers a next state: the stage moves, an error is taken, or the record is emitted. -/
theorem step_feed_cases (hf : s.feed = some w) (hF : 5 ≤ w.frame.length) :
    DecodeStep w s (step s) ∨ ∃ rec, w.stage = .assembled rec ∧ step s = .next (finishFrame w rec s) := by
  cases hs : w.stage with
  | header => exact .inl (decodeStep_header hf hs (by omega))
  | afLength _ => exact .inl (decodeStep_afLength hf hs hF)
  | subfields _ _ => exact .inl (decodeStep_subfields hf hs)
  | extension _ _ _ => exact .inl (decodeStep_extension hf hs)
  | assembled rec => exact .inr ⟨rec, rfl, step_assembled hf hs⟩

end Sys2Proof.Machine
end

section
/-!
PROOFS. Records: what an adaptation field must share with its frame, and that a record formed from such a field is
whole (R25 to R27, R161, R181, R188).
-/
namespace Sys2Proof.Machine

/-- An adaptation field as it is read from frame `F`: whole, its length F[4] and its flags the bits of F[5]. -/
structure AdaptationField.ReadFrom (F : List Byte) (af : AdaptationField) : Prop where
  whole : af.Whole
  lengthByte : af.length = byteAt F 4
  flags : ∀ b ∈ af.body, b.FlagsAre (byteAt F 5)

/-- AF_EMPTY's record (R141). -/
theorem readFrom_empty {F : List Byte} (h0 : byteAt F 4 = 0#8) :
    AdaptationField.ReadFrom F { length := 0#8, body := none } where
  whole := ⟨by simp, by simp, by simp⟩
  lengthByte := h0.symm
  flags := by simp

/-- A non-empty adaptation field's record (R161). -/
theorem readFrom_body {F : List Byte} {L : Byte} {body : AFBody} (hL : L = byteAt F 4) (hpos : 1 ≤ L.toNat)
    (hmax : L.toNat ≤ 183) (hw : body.Whole) (hflags : body.FlagsAre (byteAt F 5)) :
    AdaptationField.ReadFrom F { length := L, body := some body } where
  whole := ⟨hmax, by simpa using fun e => absurd hpos (by simp [e]), by simpa using hw⟩
  lengthByte := hL
  flags := by simpa using hflags

theorem byteAt_zero_of_decodeHeader {F : List Byte} {h : Header} (hh : decodeHeader F = .ok h) :
    byteAt F 0 = 0x47#8 := by
  by_cases h0 : byteAt F 0 = 0x47#8
  · exact h0
  · simp [decodeHeader, h0] at hh

/-- A payload view ends where the frame ends (R181). -/
theorem payloadView_bounds {afc : BitVec 2} {af : Option AdaptationField} {p : PayloadView}
    (haf : ∀ a ∈ af, a.length.toNat ≤ 183) (hp : payloadView afc (payloadOffset af) = some p) :
    p.offset + p.length = 188 ∧ p.offset = payloadOffset af := by
  unfold payloadView at hp
  split at hp
  · cases hp
    cases af with
    | none => exact ⟨rfl, rfl⟩
    | some a =>
      have := haf a rfl
      exact ⟨by simp [payloadOffset]; omega, rfl⟩
  · cases hp

/-- The record ASSEMBLE forms is whole, when its adaptation field is there as the header says and was read from the
frame (R180, R181, R188). -/
theorem assembleRecord_whole {F : List Byte} {h : Header} {af : Option AdaptationField} (hF : F.length = 188)
    (hh : decodeHeader F = .ok h) (hp : af.isSome = h.adaptationFieldControl[1])
    (haf : ∀ a ∈ af, a.ReadFrom F) : (assembleRecord F h af).Whole where
  frameSize := hF
  sync := byteAt_zero_of_decodeHeader hh
  adaptationField := hp
  adaptationFieldWhole a ha := (haf a ha).whole
  lengthByte a ha := (haf a ha).lengthByte
  flags a ha := (haf a ha).flags
  payload := by
    show (payloadView _ _).isSome = h.adaptationFieldControl[0]
    unfold payloadView
    cases h.adaptationFieldControl[0] <;> rfl
  payloadView _ hv := payloadView_bounds (fun a ha => (haf a ha).whole.length) hv

end Sys2Proof.Machine
end

section
/-!
PROOFS. The invariant of the machine is kept by every step (R22, R25 to R27, R40, R155, R161).
-/
namespace Sys2Proof.Machine

variable {F : List Byte} {b : BodyWork}

/-! ### The decode of an adaptation field's body -/

namespace BodyWork.Inv

/-- Advancing the cursor within the region keeps the invariant (R155). -/
theorem advanced (hb : b.Inv F) {c : Nat} (hc : b.cursor ≤ c) (hend : c ≤ b.afEnd) :
    BodyWork.Inv F { b with cursor := c } :=
  { hb with cursorMin := Nat.le_trans hb.cursorMin hc, cursorMax := hend }

/-- A flag still to be considered is one of the flags. -/
theorem flag_of_todo (hb : b.Inv F) {k : Nat} (hk : k < 8) (ht : b.todo[k] = true) : b.flags[k] = true := by
  have := hb.todo k
  rw [BitVec.getLsbD_eq_getElem hk, BitVec.getLsbD_eq_getElem hk] at this
  exact this ht

/-- Once a flag is considered, those still to be considered are still flags of F[5] (R146). -/
theorem todo_clearFlag (hb : b.Inv F) (j k : Nat) (hk : (clearFlag b.todo j).getLsbD k = true) :
    b.flags.getLsbD k = true :=
  hb.todo k (getLsbD_of_clearFlag hk)

variable (hb : b.Inv F) {c : Nat} (hc : b.cursor ≤ c) (hend : c ≤ b.afEnd)
include hb hc hend

theorem consider_pcr (ht : b.todo[4] = true) (v : ClockRef) :
    BodyWork.Inv F { b with pcr := some v, cursor := c, todo := clearFlag b.todo 4 } :=
  { hb.advanced hc hend with
    todo := hb.todo_clearFlag 4
    pcr := by simp [hb.flag_of_todo _ ht]
    opcr := by simp [hb.opcr]
    spliceCountdown := by simp [hb.spliceCountdown]
    privateData := by simp [hb.privateData] }

theorem consider_opcr (ht : b.todo[3] = true) (v : ClockRef) :
    BodyWork.Inv F { b with opcr := some v, cursor := c, todo := clearFlag b.todo 3 } :=
  { hb.advanced hc hend with
    todo := hb.todo_clearFlag 3
    pcr := by simp [hb.pcr]
    opcr := by simp [hb.flag_of_todo _ ht]
    spliceCountdown := by simp [hb.spliceCountdown]
    privateData := by simp [hb.privateData] }

theorem consider_spliceCountdown (ht : b.todo[2] = true) {v : Int} (hv : -128 ≤ v ∧ v ≤ 127) :
    BodyWork.Inv F { b with spliceCountdown := some v, cursor := c, todo := clearFlag b.todo 2 } :=
  { hb.advanced hc hend with
    todo := hb.todo_clearFlag 2
    pcr := by simp [hb.pcr]
    opcr := by simp [hb.opcr]
    spliceCountdown := by simp [hb.flag_of_todo _ ht]
    privateData := by simp [hb.privateData]
    spliceRange := by simpa using hv }

theorem consider_privateData (ht : b.todo[1] = true) {d : List Byte} (hd : d.length ≤ 255) :
    BodyWork.Inv F { b with privateData := some d, cursor := c, todo := clearFlag b.todo 1 } :=
  { hb.advanced hc hend with
    todo := hb.todo_clearFlag 1
    pcr := by simp [hb.pcr]
    opcr := by simp [hb.opcr]
    spliceCountdown := by simp [hb.spliceCountdown]
    privateData := by simp [hb.flag_of_todo _ ht]
    privateDataLength := by simpa using hd }

theorem consider_extension :
    BodyWork.Inv F { b with cursor := c, todo := clearFlag b.todo 0 } :=
  { hb.advanced hc hend with
    todo := hb.todo_clearFlag 0
    pcr := by simp [hb.pcr]
    opcr := by simp [hb.opcr]
    spliceCountdown := by simp [hb.spliceCountdown]
    privateData := by simp [hb.privateData] }

end BodyWork.Inv

/-- AF_BODY starts with every flag still to be considered (R143, R145). -/
theorem readBodyStart_inv (h0 : byteAt F 4 ≠ 0#8) (hr : readBodyStart F (byteAt F 4) = .ok b) :
    b.Inv F ∧ b.extension.isSome = (b.flags[0] && !b.todo[0]) := by
  obtain ⟨hmax, -, rfl⟩ := readBodyStart_ok hr
  have hpos : (byteAt F 4).toNat ≠ 0 := fun e => h0 (BitVec.eq_of_toNat_eq e)
  exact ⟨{ lengthByte := rfl, flagsByte := rfl, lengthPos := Nat.pos_of_ne_zero hpos, lengthMax := hmax, region := rfl
           cursorMin := Nat.le_refl _, cursorMax := by show 6 ≤ 5 + (byteAt F 4).toNat; omega, todo := fun _ h => h
           pcr := by simp, opcr := by simp, spliceCountdown := by simp, privateData := by simp
           spliceRange := by simp, privateDataLength := by simp }, by simp⟩

/-- When no flag is left to be considered, the options are there exactly as the flags say (R161). -/
theorem bodyOf_whole (hb : b.Inv F) (hext : b.extension.isSome = (b.flags[0] && !b.todo[0]))
    (hd : b.todo[4] = false ∧ b.todo[3] = false ∧ b.todo[2] = false ∧ b.todo[1] = false ∧ b.todo[0] = false) :
    (bodyOf b).Whole where
  pcr := by simp [hb.pcr, hd]
  opcr := by simp [hb.opcr, hd]
  spliceCountdown := by simp [hb.spliceCountdown, hd]
  privateData := by simp [hb.privateData, hd]
  extension := by simp [hext, hd]
  spliceRange := hb.spliceRange
  privateDataLength := hb.privateDataLength

theorem bodyOf_flagsAre (b : BodyWork) : (bodyOf b).FlagsAre b.flags := ⟨rfl, rfl, rfl, rfl, rfl, rfl, rfl, rfl⟩

/-- private_data is as long as its length byte says (R151). -/
theorem length_slice_le (S : List Byte) (a : Nat) (p : Byte) : (slice S a (a + p.toNat)).length ≤ 255 := by
  have := p.isLt
  simp
  omega

/-! ### One move of the decode -/

/-- Every move of a frame's decode keeps the stage's invariant. -/
theorem Stage.Moves.inv {st st' : Stage} (hm : Stage.Moves F st st') (hF : F.length = 188) (hs : st.Inv F) :
    st'.Inv F := by
  cases hm with
  | withoutAf hh hc => exact ⟨assembleRecord_whole hF hh (by simp [hc]) (by simp), rfl⟩
  | withAf hh hc => exact ⟨hh, hc⟩
  | afEmpty h0 =>
    obtain ⟨hh, hc⟩ := hs
    exact ⟨assembleRecord_whole hF hh (by simp [hc]) (by simpa using readFrom_empty h0), rfl⟩
  | afBody h0 hr =>
    obtain ⟨hh, hc⟩ := hs
    exact ⟨hh, hc, readBodyStart_inv h0 hr⟩
  | afPcr ht hr =>
    obtain ⟨hh, hc, hb, hext⟩ := hs
    obtain ⟨hend, -, rfl⟩ := readField_ok_iff.mp hr
    exact ⟨hh, hc, hb.consider_pcr (by simp) hend ht _, by simp [hext]⟩
  | afOpcr ht hr =>
    obtain ⟨hh, hc, hb, hext⟩ := hs
    obtain ⟨hend, -, rfl⟩ := readField_ok_iff.mp hr
    exact ⟨hh, hc, hb.consider_opcr (by simp) hend ht _, by simp [hext]⟩
  | afSpliceCountdown ht hr =>
    obtain ⟨hh, hc, hb, hext⟩ := hs
    obtain ⟨hend, -, rfl⟩ := readField_ok_iff.mp hr
    exact ⟨hh, hc, hb.consider_spliceCountdown (by simp) hend ht (sext8_range _), by simp [hext]⟩
  | afPrivateData ht hr =>
    obtain ⟨hh, hc, hb, hext⟩ := hs
    obtain ⟨hend, -, rfl⟩ := readPrivateData_ok_iff.mp hr
    exact ⟨hh, hc, hb.consider_privateData (by omega) hend ht (length_slice_le _ _ _), by simp [hext]⟩
  | afExtension ht hr =>
    obtain ⟨hh, hc, hb, -⟩ := hs
    obtain ⟨hend, -, rfl⟩ := readExtensionHeader_ok_iff.mp hr
    exact ⟨hh, hc, hb.consider_extension (by simp) hend, hb.flag_of_todo _ ht, by simp⟩
  | closeBody hd =>
    obtain ⟨hh, hc, hb, hext⟩ := hs
    have haf := readFrom_body hb.lengthByte hb.lengthPos hb.lengthMax (bodyOf_whole hb hext hd)
      (hb.flagsByte ▸ bodyOf_flagsAre _)
    exact ⟨assembleRecord_whole hF hh (by simp [hc]) (by simpa using haf), rfl⟩
  | extLtw ht hr | extPiecewiseRate ht hr | extSeamlessSplice ht hr =>
    obtain ⟨hh, hc, hb, hext⟩ := hs
    obtain ⟨hend, -, rfl⟩ := readField_ok_iff.mp hr
    exact ⟨hh, hc, hb.advanced (by simp) hend, hext⟩
  | closeExtension hd =>
    obtain ⟨hh, hc, hb, hflag, htodo⟩ := hs
    exact ⟨hh, hc, { hb with }, by simp [hflag, htodo]⟩

/-! ### The state's operations -/

variable {s t : State} {w : FeedWork}

/-- Between commands only the buffer and the records are left to hold. -/
theorem inv_of_idle (hb : s.buffer.length ≤ 187) (hf : s.feed = none)
    (hr : ∀ rec, Event.packet rec ∈ s.output → rec.Whole) : s.Inv :=
  ⟨⟨hb, by simp [hf]⟩, by simp [hf], hr⟩

theorem setStage_inv (hs : s.Inv) (hf : s.feed = some w) {st : Stage} (hst : st.Inv w.frame) :
    (s.setStage w st).Inv where
  memory := setStage_memory_wf st hs.memory hf
  stage := by simpa using hst
  records := hs.records

theorem raise_inv (hs : s.Inv) (hf : s.feed = some w) (k : ErrorKind) (f : FieldId) : (raise w k f s).Inv where
  memory := raise_memory_wf k f hs.memory hf
  stage := by simp
  records := by simpa using hs.records

/-- The records output after a frame: those before it, and its own (R105). -/
theorem packet_mem_finishFrame {rec r : TsPacket} :
    Event.packet r ∈ (finishFrame w rec s).output ↔ Event.packet r ∈ s.output ∨ r = rec := by
  rcases finishFrame_cases w rec s with ⟨-, e⟩ | ⟨-, e⟩ <;> simp [e]

theorem finishFrame_inv (hs : s.Inv) (hf : s.feed = some w) {rec : TsPacket} (hrec : rec.Whole) :
    (finishFrame w rec s).Inv where
  memory := finishFrame_memory_wf rec hs.memory hf
  stage := by
    rcases finishFrame_cases w rec s with ⟨-, e⟩ | ⟨-, e⟩ <;> simp [e, Stage.Inv]
  records r hr := (packet_mem_finishFrame.mp hr).elim (hs.records r) (· ▸ hrec)

theorem beginFeed_inv (hs : s.Inv) (hf : s.feed = none) (chunk : List Byte) : (beginFeed chunk s).Inv where
  memory := beginFeed_memory_wf chunk hs.memory hf
  stage := by
    rcases beginFeed_cases chunk s with ⟨-, e⟩ | ⟨-, e⟩ <;> simp [e, hf, Stage.Inv]
  records := by
    have := hs.records
    rcases beginFeed_cases chunk s with ⟨-, e⟩ | ⟨-, e⟩ <;> simpa [e] using this

theorem emptied_inv (hs : s.Inv) (hf : s.feed = none) : State.Inv { s.emit (.done .ok) with buffer := [] } where
  memory := emptied_memory_wf _ hf
  stage := by simp [hf]
  records := by simpa using hs.records

/-- Taking a command off the queue. -/
theorem inv_pending (hs : s.Inv) (rest : List HostCommand) : State.Inv { s with pending := rest } := { hs with }

/-- A step of a FEED keeps the invariant. -/
theorem step_feed_inv (hs : s.Inv) (hf : s.feed = some w) (h : step s = .next t) : t.Inv := by
  obtain ⟨-, hF, -, -⟩ := hs.memory.2 w hf
  have hst := hs.stage w hf
  rcases step_feed_cases hf (by omega) with (⟨st, hm, e⟩ | ⟨k, f, e⟩) | ⟨rec, hrec, e⟩ <;> cases h.symm.trans e
  · exact setStage_inv hs hf (hm.inv hF hst)
  · exact raise_inv hs hf k f
  · rw [hrec] at hst
    exact finishFrame_inv hs hf hst.1

/-- Settles O11: nothing is held at power-on. -/
theorem resetSatisfiesTheInvariant : Obligations.ResetSatisfiesTheInvariant :=
  inv_of_idle (by simp) rfl (by simp)

/-- Settles O12: a step of a FEED moves its stage, takes an error or emits a whole record; between commands one is taken
off the queue, or none is there. -/
theorem everyStepKeepsTheInvariant : Obligations.EveryStepKeepsTheInvariant := by
  intro s t hs h
  rcases step_next_cases h with ⟨-, -, rfl⟩ | ⟨cmd, rest, hf, -, ⟨-, rfl⟩ | ⟨-, rfl⟩⟩ | ⟨w, hf, -⟩
  · exact hs
  · exact emptied_inv (inv_pending hs rest) hf
  · exact beginFeed_inv (inv_pending hs rest) hf _
  · exact step_feed_inv hs hf h

end Sys2Proof.Machine
end

section
/-!
PROOFS. ASSEMBLE's records are whole (R25 to R27, R140, R145, R161, R180).
-/
namespace Sys2Proof.Machine

variable {α : Type} {F : List Byte} {afEnd c c' : Nat} {a : Byte} {b : AFBody}

/-- An optional part is there exactly when its flag is 1 (R146). -/
theorem isSome_of_decodeOptional_ok {flag : Bool} {rd : Nat → Except FieldId (α × Nat)} {o : Option α}
    (h : decodeOptional flag c rd = .ok (o, c')) : o.isSome = flag := by
  rcases of_decodeOptional_ok h with ⟨rfl, _, -, rfl⟩ | ⟨rfl, rfl, -⟩ <;> rfl

/-- The value of an optional part that is there was read. -/
theorem read_of_decodeOptional_ok {flag : Bool} {rd : Nat → Except FieldId (α × Nat)} {v : α}
    (h : decodeOptional flag c rd = .ok (some v, c')) : rd c = .ok (v, c') := by
  rcases of_decodeOptional_ok h with ⟨-, u, hr, e⟩ | ⟨-, e, -⟩ <;> cases e
  exact hr

theorem flagsAre_of_decodeBody_ok (h : decodeBody F afEnd a = .ok (b, c)) : b.FlagsAre a := by
  unfold decodeBody at h
  obtain ⟨_, _, -, h⟩ := of_andThen_ok h
  obtain ⟨_, _, -, h⟩ := of_andThen_ok h
  obtain ⟨_, _, -, h⟩ := of_andThen_ok h
  obtain ⟨_, _, -, h⟩ := of_andThen_ok h
  obtain ⟨_, _, -, h⟩ := of_andThen_ok h
  cases h
  exact ⟨rfl, rfl, rfl, rfl, rfl, rfl, rfl, rfl⟩

theorem whole_of_decodeBody_ok (h : decodeBody F afEnd a = .ok (b, c)) : b.Whole := by
  obtain ⟨_, _, _, _, hpcr, hopcr, hsplice, hdata, hext, fpcr, fopcr, fsplice, fdata, fext⟩ := of_decodeBody_ok h
  refine ⟨?_, ?_, ?_, ?_, ?_, fun v hv => ?_, fun d hd => ?_⟩
  · rw [fpcr, isSome_of_decodeOptional_ok hpcr]
  · rw [fopcr, isSome_of_decodeOptional_ok hopcr]
  · rw [fsplice, isSome_of_decodeOptional_ok hsplice]
  · rw [fdata, isSome_of_decodeOptional_ok hdata]
  · rw [fext, isSome_of_decodeOptional_ok hext]
  · rw [hv] at hsplice
    have hread := read_of_decodeOptional_ok hsplice
    obtain ⟨-, -, e⟩ := readField_ok_iff.mp hread
    cases e
    exact sext8_range _
  · rw [hd] at hdata
    obtain ⟨-, -, e⟩ := readPrivateData_ok_iff.mp (read_of_decodeOptional_ok hdata)
    cases e
    exact length_slice_le _ _ _

theorem readFrom_of_decodeAf_ok {af : AdaptationField} (h : decodeAf F = .ok af) : af.ReadFrom F := by
  simp only [decodeAf] at h
  split at h
  · next h0 =>
    have h0 : byteAt F 4 = 0#8 := BitVec.eq_of_toNat_eq h0
    cases h
    simpa only [h0] using readFrom_empty h0
  split at h
  · cases h
  · obtain ⟨body, _, hb, h⟩ := of_andThen_ok h
    cases h
    exact readFrom_body rfl (by omega) (by omega) (whole_of_decodeBody_ok hb) (flagsAre_of_decodeBody_ok hb)

/-- A record ASSEMBLE returns is formed from the header and, where the header says so, the adaptation field (R180). -/
theorem of_assemble_ok {r : TsPacket} (h : assemble F = .ok r) :
    ∃ hd af, decodeHeader F = .ok hd ∧ af.isSome = hd.adaptationFieldControl[1] ∧
      (∀ a ∈ af, decodeAf F = .ok a) ∧ r = assembleRecord F hd af := by
  unfold assemble at h
  cases hh : decodeHeader F with
  | error e => simp [hh] at h
  | ok hd =>
    cases hc : hd.adaptationFieldControl[1] with
    | false =>
      simp only [hh, hc] at h
      cases h
      exact ⟨hd, none, rfl, hc.symm, by simp, rfl⟩
    | true =>
      cases ha : decodeAf F with
      | error f => simp [hh, hc, ha] at h
      | ok af =>
        simp only [hh, hc, ha] at h
        cases h
        exact ⟨hd, some af, rfl, hc.symm, by simp, rfl⟩

/-- Settles O37: a record is formed from its header and from an adaptation field that was read from its frame. -/
theorem assembledRecordsAreWhole : Obligations.AssembledRecordsAreWhole := by
  refine ⟨fun F r hF h => ?_, fun F afEnd a body c h => ?_⟩
  · obtain ⟨hd, af, hh, hp, haf, rfl⟩ := of_assemble_ok h
    exact ⟨assembleRecord_whole hF hh hp fun a ha => readFrom_of_decodeAf_ok (haf a ha), rfl⟩
  · obtain ⟨h7, h6, h5, h4, h3, h2, h1, h0⟩ := flagsAre_of_decodeBody_ok h
    exact ⟨h7, h6, h5, h4, h3, h2, h1, h0⟩

end Sys2Proof.Machine
end

section
/-!
PROOFS. What a step leaves as it was: the output before it (R30, R231), and the frame and the chunk of a FEED (R32, R40).
-/
namespace Sys2Proof.Machine

variable {s t : State} {w w' : FeedWork}

theorem finishFrame_output_grows (w : FeedWork) (rec : TsPacket) (s : State) :
    ∃ es, (finishFrame w rec s).output = s.output ++ es := by
  rcases finishFrame_cases w rec s with ⟨-, e⟩ | ⟨-, e⟩ <;> rw [e]
  · exact ⟨[.packet rec], rfl⟩
  · exact ⟨[.packet rec, .done .ok], by simp⟩

theorem beginFeed_output_grows (chunk : List Byte) (s : State) :
    ∃ es, (beginFeed chunk s).output = s.output ++ es := by
  rcases beginFeed_cases chunk s with ⟨-, e⟩ | ⟨-, e⟩ <;> rw [e]
  · exact ⟨[.done .ok], rfl⟩
  · exact ⟨[], by simp⟩

/-- Settles O45: each operation a step can be appends to the output. -/
theorem outputOnlyGrows : Obligations.OutputOnlyGrows := by
  intro s t h
  rcases step_next_cases h with ⟨-, -, rfl⟩ | ⟨cmd, rest, -, -, ⟨-, rfl⟩ | ⟨-, rfl⟩⟩ |
    ⟨w, -, ⟨st, rfl⟩ | ⟨k, f, rfl, -⟩ | ⟨rec, -, rfl⟩⟩
  · exact ⟨[], by simp⟩
  · exact ⟨[.done .ok], rfl⟩
  · exact beginFeed_output_grows _ { s with pending := rest }
  · exact ⟨[], by simp⟩
  · exact ⟨[.done (.err k w.frameIndex f)], rfl⟩
  · exact finishFrame_output_grows w rec s

/-- The next frame of a FEED that goes on after a frame's record (R103). -/
theorem finishFrame_feed {rec : TsPacket} (h : (finishFrame w rec s).feed = some w') :
    188 ≤ w.chunk.length - cursorAfterFrame w ∧
      w' = { w with cur := cursorAfterFrame w, frameIndex := w.frameIndex + 1,
                    frame := slice w.chunk (cursorAfterFrame w) (cursorAfterFrame w + 188), stage := .header } := by
  rcases finishFrame_cases w rec s with ⟨hn, e⟩ | ⟨-, e⟩ <;> rw [e] at h <;> cases h
  exact ⟨hn, rfl⟩

/-- Settles O47: a FEED that goes on has moved its stage only, or has cut its next frame after a record. -/
theorem frameIsReadOnlyDuringItsDecode : Obligations.FrameIsReadOnlyDuringItsDecode := by
  intro s t w w' hf h hf'
  rcases step_next_cases h with ⟨hn, -⟩ | ⟨_, _, hn, -⟩ | ⟨v, hv, hstep⟩
  · cases hf.symm.trans hn
  · cases hf.symm.trans hn
  cases hf.symm.trans hv
  rcases hstep with ⟨st, rfl⟩ | ⟨k, f, rfl, -⟩ | ⟨rec, hrec, rfl⟩
  · cases hf'
    exact ⟨rfl, rfl, .inl ⟨st, rfl⟩⟩
  · cases hf'
  · obtain ⟨hn, rfl⟩ := finishFrame_feed hf'
    exact ⟨rfl, rfl, .inr ⟨⟨rec, hrec⟩, rfl, rfl, rfl, hn, slice_width _ _ _⟩⟩

end Sys2Proof.Machine
end

section
/-!
PROOFS. Every run of known commands ends, with one Done for each (R31, R239): each move of a frame's decode considers a
flag or closes a record, each frame after the first takes 188 bytes of the chunk, and each command leaves the queue.
-/
namespace Sys2Proof.Machine

/-! ### Runs -/

/-- Some number of steps leads from `s` to `t`. -/
def Reaches (s t : State) : Prop := ∃ n, run n s = .next t

variable {s t u : State}

theorem core_run_succ_of_step {M : Host.Core} {s t : M.State} (n : Nat) (h : M.step s = .next t) :
    M.run (n + 1) s = M.run n t := by
  simp only [Host.Core.run, h]

theorem run_succ_of_step (n : Nat) (h : step s = .next t) : run (n + 1) s = run n t :=
  core_run_succ_of_step (M := Sys2Proof.core) n h

namespace Reaches

theorem refl (s : State) : Reaches s s := ⟨0, rfl⟩

theorem head (h : step s = .next t) (ht : Reaches t u) : Reaches s u := by
  obtain ⟨n, hn⟩ := ht
  exact ⟨n + 1, (run_succ_of_step n h).trans hn⟩

theorem run_trans {n : Nat} (h : run n s = .next t) (ht : Reaches t u) : Reaches s u := by
  induction n generalizing s with
  | zero =>
    cases h
    exact ht
  | succ n ih =>
    cases hs : step s with
    | next s' => exact .head hs (ih ((run_succ_of_step n hs).symm.trans h))
    | fault r => simp [run, Host.Core.run, core, hs] at h
    | refused r => simp [run, Host.Core.run, core, hs] at h

theorem trans (h : Reaches s t) (ht : Reaches t u) : Reaches s u := by
  obtain ⟨_, hn⟩ := h
  exact run_trans hn ht

end Reaches

/-! ### What is left of a FEED -/

/-- A bound on the steps left in a frame's decode: a flag still set in `todo` costs as much as an extension with all of
its flags. -/
def Stage.left : Stage → Nat
  | .header => 65538
  | .afLength _ => 65537
  | .subfields _ b => b.todo.toNat * 257 + 1
  | .extension _ b x => b.todo.toNat * 257 + x.todo.toNat + 2
  | .assembled _ => 0

/-- The chunk bytes no frame has taken yet. -/
def FeedWork.bytesLeft (w : FeedWork) : Nat := w.chunk.length - cursorAfterFrame w

/-- Considering a flag leaves a smaller flags byte (R146). -/
theorem clearFlag_lt {v : Byte} {k : Nat} (hk : k < 8) (h : v[k] = true) : (clearFlag v k).toNat < v.toNat := by
  refine Nat.lt_of_le_of_ne ?_ fun e => ?_
  · rw [clearFlag, BitVec.toNat_and]
    exact Nat.and_le_left
  · have := congrArg (fun u : Byte => u[k]) (BitVec.eq_of_toNat_eq e)
    simp [hk, h] at this

/-- Every move of a frame's decode leaves less to do. -/
theorem Stage.Moves.left_lt {F : List Byte} {st st' : Stage} (hm : Stage.Moves F st st') : st'.left < st.left := by
  cases hm with
  | withoutAf | withAf | afEmpty | closeBody => simp [Stage.left]
  | @afBody _ b =>
    have := b.todo.isLt
    simp only [Stage.left]
    omega
  | afPcr ht | afOpcr ht | afSpliceCountdown ht | afPrivateData ht =>
    have := clearFlag_lt (by decide) ht
    simp only [Stage.left]
    omega
  | afExtension ht =>
    have := clearFlag_lt (by decide) ht
    have := BitVec.isLt (w := 8)
    simp only [Stage.left]
    omega
  | extLtw ht | extPiecewiseRate ht | extSeamlessSplice ht =>
    have := clearFlag_lt (by decide) ht
    simp only [Stage.left]
    omega
  | closeExtension =>
    simp only [Stage.left]
    omega

/-! ### Commands end -/

/-- From `s` the command under way has come to its end in `t`: no FEED, B within its capacity, no other command taken,
and one more Done (R22, R31). -/
structure CommandEnded (s t : State) : Prop where
  feed : t.feed = none
  buffer : t.buffer.length ≤ 187
  pending : t.pending = s.pending
  done : t.output.countP Event.isDone = s.output.countP Event.isDone + 1

/-- The end of a command, counted from an earlier state that has the same queue and as many Dones. -/
theorem CommandEnded.of_earlier (h : CommandEnded t u) (hp : t.pending = s.pending)
    (hd : t.output.countP Event.isDone = s.output.countP Event.isDone) : CommandEnded s u :=
  ⟨h.feed, h.buffer, h.pending.trans hp, h.done.trans (by rw [hd])⟩

variable {w : FeedWork}

theorem raise_ended (hs : Memory.wf s) (hf : s.feed = some w) (k : ErrorKind) (f : FieldId) :
    CommandEnded s (raise w k f s) where
  feed := rfl
  buffer := (raise_memory_wf k f hs hf).1
  pending := rfl
  done := by simp [Event.isDone]

/-- After a frame's record the FEED has ended, or it goes on with 188 bytes fewer (R103, R104). -/
theorem finishFrame_ended_or_less (hs : Memory.wf s) (hf : s.feed = some w) (rec : TsPacket) :
    CommandEnded s (finishFrame w rec s) ∨
    (∃ w', (finishFrame w rec s).feed = some w' ∧ w'.bytesLeft < w.bytesLeft) ∧
      (finishFrame w rec s).output.countP Event.isDone = s.output.countP Event.isDone := by
  have hm := (finishFrame_memory_wf rec hs hf).1
  rcases finishFrame_cases w rec s with ⟨hn, e⟩ | ⟨hn, e⟩ <;> rw [e] at hm ⊢
  · refine .inr ⟨⟨_, rfl, ?_⟩, by simp [Event.isDone]⟩
    show w.chunk.length - (cursorAfterFrame w + 188) < w.chunk.length - cursorAfterFrame w
    omega
  · exact .inl ⟨rfl, hm, rfl, by simp [Event.isDone]⟩

/-- Every FEED under way ends: by the bytes left, and within a frame by what is left of its decode. -/
theorem feed_ends (s : State) (w : FeedWork) (hs : Memory.wf s) (hf : s.feed = some w) :
    ∃ t, Reaches s t ∧ CommandEnded s t := by
  obtain ⟨-, hF, -, -⟩ := hs.2 w hf
  rcases step_feed_cases hf (by omega) with (⟨st, hm, e⟩ | ⟨k, f, e⟩) | ⟨rec, -, e⟩
  · have := hm.left_lt
    obtain ⟨t, ht, he⟩ :=
      feed_ends (s.setStage w st) { w with stage := st } (setStage_memory_wf st hs hf) rfl
    exact ⟨t, .head e ht, he.of_earlier rfl rfl⟩
  · exact ⟨_, .head e (.refl _), raise_ended hs hf k f⟩
  · rcases finishFrame_ended_or_less hs hf rec with he | ⟨⟨w', hw', hl⟩, hd⟩
    · exact ⟨_, .head e (.refl _), he⟩
    · obtain ⟨t, ht, he⟩ := feed_ends (finishFrame w rec s) w' (finishFrame_memory_wf rec hs hf) hw'
      exact ⟨t, .head e ht, he.of_earlier (by simp) hd⟩
termination_by (w.bytesLeft, w.stage.left)
decreasing_by
  · exact Prod.Lex.right _ this
  · exact Prod.Lex.left _ _ hl

/-- FEED ends: at once in the filling case (R101), else with its frames (R102). -/
theorem beginFeed_ends (chunk : List Byte) (hb : s.buffer.length ≤ 187) (hf : s.feed = none) :
    ∃ t, Reaches (beginFeed chunk s) t ∧ CommandEnded s t := by
  have hm := beginFeed_memory_wf chunk ⟨hb, by simp [hf]⟩ hf
  rcases beginFeed_cases chunk s with ⟨-, e⟩ | ⟨-, e⟩ <;> rw [e] at hm ⊢
  · exact ⟨_, .refl _, hf, hm.1, rfl, by simp [Event.isDone]⟩
  · obtain ⟨t, ht, he⟩ := feed_ends _ _ hm rfl
    exact ⟨t, ht, he.of_earlier rfl rfl⟩

variable {cmd : HostCommand} {rest : List HostCommand}

/-- A RESET at the head of the queue (R107). -/
theorem step_resetCommand (hf : s.feed = none) (hp : s.pending = cmd :: rest) (hc : cmd.code = 0x00#8) :
    step s = .next { { s with pending := rest }.emit (.done .ok) with buffer := [] } := by
  simp [step, fetch, fetchCommand, decode, decodeHostCmd, exec, execReset, hf, hp, hc]

/-- A FEED at the head of the queue (R100). -/
theorem step_feedCommand (hf : s.feed = none) (hp : s.pending = cmd :: rest) (hc : cmd.code = 0x01#8) :
    step s = .next (beginFeed cmd.operand { s with pending := rest }) := by
  simp [step, fetch, fetchCommand, decode, decodeHostCmd, exec, execFeed, hf, hp, hc]

/-- Every known command ends. -/
theorem command_ends (hf : s.feed = none) (hb : s.buffer.length ≤ 187) (hp : s.pending = cmd :: rest)
    (hc : cmd.code = 0x00#8 ∨ cmd.code = 0x01#8) :
    ∃ t, Reaches s t ∧ CommandEnded { s with pending := rest } t := by
  rcases hc with hc | hc
  · exact ⟨_, .head (step_resetCommand hf hp hc) (.refl _), hf, by simp, rfl, by simp [Event.isDone]⟩
  · obtain ⟨t, ht, he⟩ := beginFeed_ends (s := { s with pending := rest }) cmd.operand hb hf
    exact ⟨t, .head (step_feedCommand hf hp hc) ht, he⟩

/-- A queue of known commands is issued to its end. -/
theorem queue_ends (cmds : List HostCommand) (hf : s.feed = none) (hb : s.buffer.length ≤ 187)
    (hp : s.pending = cmds) (hc : ∀ cmd ∈ cmds, cmd.code = 0x00#8 ∨ cmd.code = 0x01#8) :
    ∃ t, Reaches s t ∧ t.feed = none ∧ t.pending = [] ∧
      t.output.countP Event.isDone = s.output.countP Event.isDone + cmds.length := by
  induction cmds generalizing s with
  | nil => exact ⟨s, .refl s, hf, hp, rfl⟩
  | cons cmd rest ih =>
    obtain ⟨hcmd, hrest⟩ := List.forall_mem_cons.mp hc
    obtain ⟨u, hu, he⟩ := command_ends hf hb hp hcmd
    obtain ⟨t, ht, htf, htp, htd⟩ := ih he.feed he.buffer he.pending hrest
    refine ⟨t, hu.trans ht, htf, htp, ?_⟩
    have hd : u.output.countP Event.isDone = s.output.countP Event.isDone + 1 := he.done
    rw [htd, hd, List.length_cons]
    omega

/-- Settles O44, by induction on the queue: each command comes to its end. -/
theorem everyCommandEndsWithOneDone : Obligations.EveryCommandEndsWithOneDone := by
  intro s hf hb hc
  obtain ⟨t, ⟨n, hn⟩, htf, htp, htd⟩ := queue_ends s.pending hf hb rfl hc
  exact ⟨n, t, hn, htf, htp, htd⟩

end Sys2Proof.Machine
end

section
/-!
PROOFS. While a FEED runs, B is held and no command is taken (R22, R46); between commands they are taken one at a time
(R233).
-/
namespace Sys2Proof.Machine

variable {s t : State} {w w' : FeedWork}

/-- Every step of the FEED `w`: the decode moves on, an error is taken, or a record is emitted. -/
theorem step_next_of_feed (hf : s.feed = some w) (h : step s = .next t) :
    (∃ st, t = s.setStage w st) ∨ (∃ k f, t = raise w k f s) ∨ ∃ rec, t = finishFrame w rec s := by
  rcases step_next_cases h with ⟨hn, -⟩ | ⟨_, _, hn, -⟩ | ⟨v, hv, hstep⟩
  · cases hf.symm.trans hn
  · cases hf.symm.trans hn
  cases hf.symm.trans hv
  rcases hstep with hst | ⟨k, f, ht, -⟩ | ⟨rec, -, ht⟩
  · exact .inl hst
  · exact .inr (.inl ⟨k, f, ht⟩)
  · exact .inr (.inr ⟨rec, ht⟩)

/-- B is written after a record only where the FEED ends (R103, R104). -/
theorem finishFrame_buffer_of_feed {rec : TsPacket} (h : (finishFrame w rec s).feed = some w') :
    (finishFrame w rec s).buffer = s.buffer := by
  rcases finishFrame_cases w rec s with ⟨-, e⟩ | ⟨-, e⟩ <;> rw [e] at h ⊢
  · rfl
  · cases h

/-- R22: taking an error and the remainder write B, and both end the FEED. -/
theorem step_buffer_of_feed (hf : s.feed = some w) (h : step s = .next t) (hf' : t.feed = some w') :
    t.buffer = s.buffer := by
  rcases step_next_of_feed hf h with ⟨st, rfl⟩ | ⟨k, f, rfl⟩ | ⟨rec, rfl⟩
  · rfl
  · cases hf'
  · exact finishFrame_buffer_of_feed hf'

/-- R46: no operation of a FEED touches the queue. -/
theorem step_pending_of_feed (hf : s.feed = some w) (h : step s = .next t) : t.pending = s.pending := by
  rcases step_next_of_feed hf h with ⟨st, rfl⟩ | ⟨k, f, rfl⟩ | ⟨rec, rfl⟩
  · rfl
  · rfl
  · exact finishFrame_pending w rec s

/-- R233: RESET and FEED leave the rest of the queue as it was. -/
theorem step_takes_at_most_one_command (hf : s.feed = none) (h : step s = .next t) :
    t = s ∨ ∃ cmd, s.pending = cmd :: t.pending := by
  rcases step_next_cases h with ⟨-, -, rfl⟩ | ⟨cmd, rest, -, hp, ⟨-, rfl⟩ | ⟨-, rfl⟩⟩ | ⟨_, hs, -⟩
  · exact .inl rfl
  · exact .inr ⟨cmd, hp⟩
  · exact .inr ⟨cmd, by rw [hp, beginFeed_pending]⟩
  · cases hf.symm.trans hs

/-- Settles O46: B and the queue by the operations of a FEED, the taking of commands by those between commands. -/
theorem feedHoldsTheBufferAndTheQueue : Obligations.FeedHoldsTheBufferAndTheQueue :=
  ⟨fun _ _ _ _ => step_buffer_of_feed, fun _ _ _ => step_pending_of_feed, fun _ _ => step_takes_at_most_one_command⟩

end Sys2Proof.Machine
end

section
/-!
PROOFS. The encoder and the decoder as inverses of each other, and the decoder against the opcode table (R61, R75, R90).
The header's bytes as numbers of its fields and the fields as numbers of their bytes; everything else is bookkeeping on
one packet kind, `packetKind afc h`, which is the same argument for all four.
-/
namespace Sys2Proof

/-! ### The header's bytes and fields as numbers (R61, R122 to R124) -/

theorem headerByte1_toNat (h : HeaderFields) :
    (headerByte1 h).toNat = h.transportErrorIndicator.toNat * 128 + h.payloadUnitStartIndicator.toNat * 64 +
      h.transportPriority.toNat * 32 + h.pid.toNat / 256 := by
  have := h.pid.isLt
  have := h.transportErrorIndicator.toNat_lt
  have := h.payloadUnitStartIndicator.toNat_lt
  have := h.transportPriority.toNat_lt
  rw [headerByte1, BitVec.toNat_ofNat]
  omega

theorem headerByte2_toNat (h : HeaderFields) : (headerByte2 h).toNat = h.pid.toNat % 256 :=
  BitVec.toNat_ofNat _ _

theorem headerByte3_toNat (afc : BitVec 2) (h : HeaderFields) :
    (headerByte3 afc h).toNat =
      h.transportScramblingControl.toNat * 64 + afc.toNat * 16 + h.continuityCounter.toNat := by
  have := h.transportScramblingControl.isLt
  have := h.continuityCounter.isLt
  have := afc.isLt
  rw [headerByte3, BitVec.toNat_ofNat]
  omega

theorem headerFieldsOf_pid_toNat (b1 b2 b3 : Byte) :
    (headerFieldsOf b1 b2 b3).pid.toNat = b1.toNat % 32 * 256 + b2.toNat := by
  have := b2.isLt
  simp only [headerFieldsOf, bits, BitVec.toNat_ofNat]
  omega

theorem headerFieldsOf_scrambling_toNat (b1 b2 b3 : Byte) :
    (headerFieldsOf b1 b2 b3).transportScramblingControl.toNat = b3.toNat / 64 := by
  have := b3.isLt
  simp only [headerFieldsOf, bits, BitVec.toNat_ofNat]
  omega

theorem headerFieldsOf_continuity_toNat (b1 b2 b3 : Byte) :
    (headerFieldsOf b1 b2 b3).continuityCounter.toNat = b3.toNat % 16 := by
  simp only [headerFieldsOf, bits, BitVec.toNat_ofNat]
  omega

theorem afControlOf_toNat (b3 : Byte) : (afControlOf b3).toNat = b3.toNat / 16 % 4 := by
  simp only [afControlOf, bits, BitVec.toNat_ofNat]
  omega

/-! ### Header round trips -/

theorem afControlOf_headerByte3 (afc : BitVec 2) (h : HeaderFields) : afControlOf (headerByte3 afc h) = afc := by
  have := h.continuityCounter.isLt
  have := afc.isLt
  apply BitVec.eq_of_toNat_eq
  rw [afControlOf_toNat, headerByte3_toNat]
  omega

theorem bool_eq_of_toNat_eq {a b : Bool} (h : a.toNat = b.toNat) : a = b := by
  revert a b; decide

/-- Header fields are determined by their numbers. -/
theorem HeaderFields.eq_of_toNat {h h' : HeaderFields}
    (tei : h.transportErrorIndicator.toNat = h'.transportErrorIndicator.toNat)
    (pusi : h.payloadUnitStartIndicator.toNat = h'.payloadUnitStartIndicator.toNat)
    (prio : h.transportPriority.toNat = h'.transportPriority.toNat) (pid : h.pid.toNat = h'.pid.toNat)
    (tsc : h.transportScramblingControl.toNat = h'.transportScramblingControl.toNat)
    (cc : h.continuityCounter.toNat = h'.continuityCounter.toNat) : h = h' := by
  obtain ⟨_, _, _, _, _, _⟩ := h
  obtain ⟨_, _, _, _, _, _⟩ := h'
  cases bool_eq_of_toNat_eq tei
  cases bool_eq_of_toNat_eq pusi
  cases bool_eq_of_toNat_eq prio
  cases BitVec.eq_of_toNat_eq pid
  cases BitVec.eq_of_toNat_eq tsc
  cases BitVec.eq_of_toNat_eq cc
  rfl

/-- Decoding the encoded header bytes drops no bit of a field. -/
theorem headerFieldsOf_headerBytes (afc : BitVec 2) (h : HeaderFields) :
    headerFieldsOf (headerByte1 h) (headerByte2 h) (headerByte3 afc h) = h := by
  have := h.pid.isLt
  have := h.continuityCounter.isLt
  have := afc.isLt
  have := h.transportErrorIndicator.toNat_lt
  have := h.payloadUnitStartIndicator.toNat_lt
  have := h.transportPriority.toNat_lt
  have h1 := headerByte1_toNat h
  have h3 := headerByte3_toNat afc h
  obtain ⟨tei, pusi, prio⟩ := headerFlags_toNat (headerByte1 h)
  apply HeaderFields.eq_of_toNat
  · rw [headerFieldsOf, tei]; omega
  · rw [headerFieldsOf, pusi]; omega
  · rw [headerFieldsOf, prio]; omega
  · rw [headerFieldsOf_pid_toNat, headerByte2_toNat]; omega
  · rw [headerFieldsOf_scrambling_toNat]; omega
  · rw [headerFieldsOf_continuity_toNat]; omega

/-- Encoding the decoded header gives its bytes back: the fields cover F[1], F[2] and F[3] (R61). -/
theorem encodeHeader_headerFieldsOf (b1 b2 b3 : Byte) :
    encodeHeader (afControlOf b3) (headerFieldsOf b1 b2 b3) = [Config.syncByte, b1, b2, b3] := by
  have hb1 := b1.isLt
  have hb2 := b2.isLt
  have hpid := headerFieldsOf_pid_toNat b1 b2 b3
  have e1 : headerByte1 (headerFieldsOf b1 b2 b3) = b1 := by
    obtain ⟨f7, f6, f5⟩ := headerFlags_toNat b1
    apply BitVec.eq_of_toNat_eq
    rw [headerByte1_toNat, hpid]
    simp only [headerFieldsOf, f7, f6, f5]
    omega
  have e2 : headerByte2 (headerFieldsOf b1 b2 b3) = b2 := by
    apply BitVec.eq_of_toNat_eq
    rw [headerByte2_toNat, hpid]
    omega
  have e3 : headerByte3 (afControlOf b3) (headerFieldsOf b1 b2 b3) = b3 := by
    apply BitVec.eq_of_toNat_eq
    rw [headerByte3_toNat, headerFieldsOf_scrambling_toNat, headerFieldsOf_continuity_toNat, afControlOf_toNat]
    omega
  rw [encodeHeader, e1, e2, e3]

/-! ### The four packet kinds as one -/

theorem encode_packetKind (afc : BitVec 2) (h : HeaderFields) : encode (packetKind afc h) = encodeHeader afc h := by
  rcases BitVec2_cases afc with rfl | rfl | rfl | rfl <;> rfl

theorem packetKind_wellFormed (afc : BitVec 2) (h : HeaderFields) : (packetKind afc h).wellFormed = true := by
  rcases BitVec2_cases afc with rfl | rfl | rfl | rfl <;> rfl

theorem packetKind_format (afc : BitVec 2) (h : HeaderFields) : (packetKind afc h).format = .tsHeader32 := by
  rcases BitVec2_cases afc with rfl | rfl | rfl | rfl <;> rfl

theorem packetKind_tableMask (afc : BitVec 2) (h : HeaderFields) : (packetKind afc h).tableMask = 0xFF000030 := by
  rcases BitVec2_cases afc with rfl | rfl | rfl | rfl <;> rfl

theorem packetKind_tableMatch (afc : BitVec 2) (h : HeaderFields) :
    (packetKind afc h).tableMatch = 0x47000000 + afc.toNat * 16 := by
  rcases BitVec2_cases afc with rfl | rfl | rfl | rfl <;> rfl

theorem decode_sync (b1 b2 b3 : Byte) :
    decode .tsHeader32 [0x47#8, b1, b2, b3] = .ok (packetKind (afControlOf b3) (headerFieldsOf b1 b2 b3)) := rfl

theorem decode_encodeHeader (afc : BitVec 2) (h : HeaderFields) :
    decode .tsHeader32 (encodeHeader afc h) = .ok (packetKind afc h) := by
  rw [encodeHeader, decode_sync, afControlOf_headerByte3, headerFieldsOf_headerBytes]

/-- A header that decodes starts with the sync byte (R76). -/
theorem of_decode_header {b0 b1 b2 b3 : Byte} {i : Instr} (h : decode .tsHeader32 [b0, b1, b2, b3] = .ok i) :
    b0 = 0x47#8 ∧ i = packetKind (afControlOf b3) (headerFieldsOf b1 b2 b3) := by
  by_cases h0 : b0 = 0x47#8
  · subst h0
    rw [decode_sync] at h
    cases h
    exact ⟨rfl, rfl⟩
  · simp [decode, decodeTsHeader, h0] at h

/-- Settles O2: a packet kind by the header's round trip, AF_BODY because its length byte is not 0, every other row by
its one word. -/
theorem decodeOfEncodeIsTheInstruction : Obligations.DecodeOfEncodeIsTheInstruction := by
  intro i hwf
  cases i with
  | pktNone h => exact decode_encodeHeader 0b00#2 h
  | pktPayload h => exact decode_encodeHeader 0b01#2 h
  | pktAf h => exact decode_encodeHeader 0b10#2 h
  | pktAfPayload h => exact decode_encodeHeader 0b11#2 h
  | afBody length =>
    have h0 : length ≠ 0#8 := bne_iff_ne.mp hwf
    exact if_neg h0
  | reset | feed _ | afEmpty => rfl
  | afPcr | afOpcr | afSpliceCountdown | afPrivateData | afExtension => rfl
  | extLtw | extPiecewiseRate | extSeamlessSplice => rfl

/-- Settles O3: the packet kind that F[3][5:4] selects, with the fields of the header. -/
theorem everyHeaderWordDecodesAndReencodes : Obligations.EveryHeaderWordDecodesAndReencodes := fun b1 b2 b3 =>
  ⟨packetKind (afControlOf b3) (headerFieldsOf b1 b2 b3), decode_sync b1 b2 b3, packetKind_wellFormed _ _,
    packetKind_format _ _, (encode_packetKind _ _).trans (encodeHeader_headerFieldsOf b1 b2 b3)⟩

/-- Settles O1: each word as its row reads it. -/
theorem writtenOutWordsDecode : Obligations.WrittenOutWordsDecode :=
  ⟨rfl, rfl, rfl, rfl, rfl, rfl, rfl, rfl, rfl, rfl, rfl, rfl⟩

/-! ### The opcode table (R75) -/

theorem and_30_eq_afControlOf (b3 : Byte) : b3 &&& 0x30#8 = BitVec.ofNat 8 ((afControlOf b3).toNat * 16) := by
  revert b3; decide

/-- The header mask keeps the sync byte and F[3][5:4]. -/
theorem header_and_mask (b0 b1 b2 b3 : Byte) :
    (b0 ++ b1 ++ b2 ++ b3 : BitVec 32) &&& 0xFF000030#32 = (b0 ++ 0#8 ++ 0#8 ++ (b3 &&& 0x30#8) : BitVec 32) := by
  have hm : 0xFF000030#32 = (BitVec.allOnes 8 ++ 0#8 ++ 0#8 ++ 0x30#8 : BitVec 32) := rfl
  rw [hm, BitVec.and_append, BitVec.and_append, BitVec.and_append, BitVec.and_allOnes, BitVec.and_zero, BitVec.and_zero]

/-- A flag that is set is all its row's mask sees. -/
theorem and_twoPow_of_flag {b : Byte} {k : Nat} {hk : k < 8} (h : b[k] = true) :
    b &&& BitVec.twoPow 8 k = BitVec.twoPow 8 k := by
  rw [BitVec.and_twoPow, if_pos (by rwa [BitVec.getLsbD_eq_getElem hk])]

/-- The four packet kinds' rows. -/
theorem decode_header_agrees {b0 b1 b2 b3 : Byte} {i : Instr} (h : decode .tsHeader32 [b0, b1, b2, b3] = .ok i) :
    (b0 ++ b1 ++ b2 ++ b3 : BitVec 32) &&& BitVec.ofNat 32 i.tableMask = BitVec.ofNat 32 i.tableMatch := by
  obtain ⟨rfl, rfl⟩ := of_decode_header h
  rw [packetKind_tableMask, packetKind_tableMatch, header_and_mask, and_30_eq_afControlOf]
  rcases BitVec2_cases (afControlOf b3) with e | e | e | e <;> rw [e] <;> rfl

/-- The one-byte rows: a code or a length is compared whole or not at all, a flag by its own bit. -/
theorem decode_byte_agrees {fmt : Format} {b : Byte} {i : Instr} (hfmt : fmt ≠ .tsHeader32)
    (h : decode fmt [b] = .ok i) : b &&& BitVec.ofNat 8 i.tableMask = BitVec.ofNat 8 i.tableMatch := by
  cases fmt with
  | tsHeader32 => exact absurd rfl hfmt
  | hostCmd =>
    simp only [decode, decodeHostCmd] at h
    split at h
    case isTrue reset => cases h; subst reset; rfl
    split at h
    case isTrue feed => cases h; subst feed; rfl
    cases h
  | afLength8 =>
    simp only [decode, decodeAfLength] at h
    split at h
    case isTrue empty => cases h; subst empty; rfl
    cases h
    exact BitVec.and_zero
  | afFlags8 =>
    simp only [decode, decodeAfFlags] at h
    split at h
    case isTrue pcr => cases h; exact and_twoPow_of_flag pcr
    split at h
    case isTrue opcr => cases h; exact and_twoPow_of_flag opcr
    split at h
    case isTrue splice => cases h; exact and_twoPow_of_flag splice
    split at h
    case isTrue priv => cases h; exact and_twoPow_of_flag priv
    split at h
    case isTrue ext => cases h; exact and_twoPow_of_flag ext
    cases h
  | afextFlags8 =>
    simp only [decode, decodeAfextFlags] at h
    split at h
    case isTrue ltw => cases h; exact and_twoPow_of_flag ltw
    split at h
    case isTrue rate => cases h; exact and_twoPow_of_flag rate
    split at h
    case isTrue splice => cases h; exact and_twoPow_of_flag splice
    cases h

/-- Settles O5: header words by the packet kind's two bits, single bytes format by format. -/
theorem decoderAgreesWithTheOpcodeTable : Obligations.DecoderAgreesWithTheOpcodeTable :=
  ⟨fun _ _ _ _ _ => decode_header_agrees, fun _ _ _ => decode_byte_agrees⟩

end Sys2Proof
end

section
/-!
PROOFS. Which word a step runs, and where a step stops (R46, R75, R90): `fetch` at each place, then what `step` makes of
it. From the invariant only an unknown command code stops a step.
-/
namespace Sys2Proof.Machine

variable {s : State} {w : FeedWork} {h : Header} {b : BodyWork} {x : ExtWork} {cmd : HostCommand}
  {rest : List HostCommand} {i : Instr}

/-! ### The word fetched at each place -/

theorem step_of_fetch_instr {s' : State} (hfetch : fetch s = .instr i s') : step s = exec i s' := by
  rw [step, hfetch]

theorem fetch_command (hf : s.feed = none) (hp : s.pending = cmd :: rest)
    (hd : decode .hostCmd (cmd.code :: cmd.operand) = .ok i) : fetch s = .instr i { s with pending := rest } := by
  simp only [fetch, hf, fetchCommand, hp, hd]

theorem fetch_header (hf : s.feed = some w) (hs : w.stage = .header)
    (hd : decode .tsHeader32 (slice w.frame 0 4) = .ok i) : fetch s = .instr i s := by
  simp only [fetch, hf, hs, fetchHeader, Config.headerSize, hd]

theorem fetch_afLength (hf : s.feed = some w) (hs : w.stage = .afLength h)
    (hd : decode .afLength8 (slice w.frame 4 5) = .ok i) : fetch s = .instr i s := by
  simp only [fetch, hf, hs, fetchAfLength, Config.afLengthIndex, hd]

theorem fetch_subfield (hf : s.feed = some w) (hs : w.stage = .subfields h b)
    (hd : decode .afFlags8 [b.todo] = .ok i) : fetch s = .instr i s := by
  simp only [fetch, hf, hs, fetchSubfield, hd]

theorem fetch_extension (hf : s.feed = some w) (hs : w.stage = .extension h b x)
    (hd : decode .afextFlags8 [x.todo] = .ok i) : fetch s = .instr i s := by
  simp only [fetch, hf, hs, fetchExtension, hd]

/-- Settles O6: the fetch at each of the five places. -/
theorem stepRunsTheDecodedInstruction : Obligations.StepRunsTheDecodedInstruction :=
  ⟨fun _ _ _ _ hf hp hd => step_of_fetch_instr (fetch_command hf hp hd),
    fun _ _ _ hf hs hd => step_of_fetch_instr (fetch_header hf hs hd),
    fun _ _ _ _ hf hs hd => step_of_fetch_instr (fetch_afLength hf hs hd),
    fun _ _ _ _ _ hf hs hd => step_of_fetch_instr (fetch_subfield hf hs hd),
    fun _ _ _ _ _ _ hf hs hd => step_of_fetch_instr (fetch_extension hf hs hd)⟩

/-! ### Where a step stops -/

/-- Between commands with none pending (R213). -/
theorem step_idle (hf : s.feed = none) (hp : s.pending = []) : step s = .next s := by
  simp only [step, fetch, hf, fetchCommand, hp]

/-- A code that spells no command (R90). -/
theorem step_unknownCommand (hf : s.feed = none) (hp : s.pending = cmd :: rest) (h0 : cmd.code ≠ 0x00#8)
    (h1 : cmd.code ≠ 0x01#8) : step s = .refused (.unknownCommand cmd.code) := by
  simp only [step, fetch, hf, fetchCommand, hp, decode, decodeHostCmd, h0, h1, if_false]

/-- A step of a FEED always answers: every error of a frame is a next state (R205). -/
theorem step_answers_of_feed (hf : s.feed = some w) (hF : 5 ≤ w.frame.length) : ∃ t, step s = .next t := by
  rcases step_feed_cases hf hF with (⟨_, -, e⟩ | ⟨_, _, e⟩) | ⟨_, -, e⟩
  · exact ⟨_, e⟩
  · exact ⟨_, e⟩
  · exact ⟨_, e⟩

/-- Settles O8. -/
theorem unknownCommandIsRefused : Obligations.UnknownCommandIsRefused :=
  fun _ _ _ => step_unknownCommand

/-- Settles O13: the invariant's frame has 188 bytes, so a FEED goes on; between commands the code decides. -/
theorem stepsStopOnlyForUnknownCommands : Obligations.StepsStopOnlyForUnknownCommands := by
  intro s hs
  cases hf : s.feed with
  | some w =>
    obtain ⟨-, hF, -, -⟩ := hs.memory.2 w hf
    exact .inl (step_answers_of_feed hf (by omega))
  | none =>
    cases hp : s.pending with
    | nil => exact .inl ⟨s, step_idle hf hp⟩
    | cons cmd rest =>
      by_cases h0 : cmd.code = 0x00#8
      · exact .inl ⟨_, step_resetCommand hf hp h0⟩
      by_cases h1 : cmd.code = 0x01#8
      · exact .inl ⟨_, step_feedCommand hf hp h1⟩
      exact .inr ⟨cmd, rest, rfl, rfl, h0, h1, step_unknownCommand hf hp h0 h1⟩

end Sys2Proof.Machine
end

section
/-!
PROOFS. The sub-fields whose values are given as numbers, where they fit in the region: the reader answers its value and
the cursor after it, and the structure stores both and marks its flag considered (R65, R67, R69, R70, R146).
-/
namespace Sys2Proof.Machine

variable {F : List Byte} {afEnd c : Nat}

/-! ### What the readers answer where the part fits -/

theorem readClockRef_fits {f : FieldId} (hfit : c + 6 ≤ afEnd) (hF : afEnd ≤ F.length) :
    readClockRef F afEnd c f = .ok (clockRef F c, c + 6) :=
  readField_fits hfit hF

theorem readPrivateData_fits (hfit : c + 1 + byteVal F c ≤ afEnd) (hF : afEnd ≤ F.length) :
    readPrivateData F afEnd c = .ok (slice F (c + 1) (c + 1 + byteVal F c), c + 1 + byteVal F c) :=
  readPrivateData_ok_iff.mpr ⟨hfit, Nat.le_trans hfit hF, rfl⟩

theorem readLtw_fits (hfit : c + 2 ≤ afEnd) (hF : afEnd ≤ F.length) :
    readLtw F afEnd c = .ok (ltwValue F c, c + 2) :=
  readField_fits hfit hF

theorem readPiecewiseRate_fits (hfit : c + 3 ≤ afEnd) (hF : afEnd ≤ F.length) :
    readPiecewiseRate F afEnd c = .ok (piecewiseRateValue F c, c + 3) :=
  readField_fits hfit hF

/-- The top bit of the first byte (R69). -/
theorem ltwValue_valid (F : List Byte) (c : Nat) : (ltwValue F c).valid.toNat = byteVal F c / 128 :=
  (headerFlags_toNat (byteAt F c)).1

/-! ### The structures -/

/-- Settles O21: both structures read the same clock reference (R65). -/
theorem pcrAndOpcrDecodeTheirClockReference : Obligations.PcrAndOpcrDecodeTheirClockReference := by
  intro s w h b hf hs hfit hF
  refine ⟨clockRef w.frame b.cursor, clockRef_base _ _ (by omega), clockRef_extension _ _, ?_, ?_⟩
  · rw [exec, execAfPcr, onSubfields_at hf hs, readClockRef_fits hfit hF]
    rfl
  · rw [exec, execAfOpcr, onSubfields_at hf hs, readClockRef_fits hfit hF]
    rfl

/-- Settles O23: the slice after the length byte lies in the frame, so it has all its P bytes. -/
theorem privateDataIsTheDeclaredBytes : Obligations.PrivateDataIsTheDeclaredBytes := by
  intro s w h b hf hs hfit hF
  have hlen : (slice w.frame (b.cursor + 1) (b.cursor + 1 + byteVal w.frame b.cursor)).length =
      byteVal w.frame b.cursor := by
    rw [length_slice]
    omega
  refine ⟨_, hlen, fun k hk => byteAt_slice _ _ _ k (by omega), ?_⟩
  rw [exec, execAfPrivateData, onSubfields_at hf hs, readPrivateData_fits hfit hF, hlen]
  rfl

/-- Settles O25. -/
theorem ltwDecodesValidAndOffset : Obligations.LtwDecodesValidAndOffset := by
  intro s w h b x hf hs hfit hF
  refine ⟨ltwValue w.frame b.cursor, ltwValue_valid _ _, ltwValue_offset _ _, ?_⟩
  rw [exec, execExtLtw, onExtension_at hf hs, readLtw_fits hfit hF]
  rfl

/-- Settles O26. -/
theorem piecewiseRateDecodesTwentyTwoBits : Obligations.PiecewiseRateDecodesTwentyTwoBits := by
  intro s w h b x hf hs hfit hF
  refine ⟨piecewiseRateValue w.frame b.cursor, piecewiseRateValue_toNat _ _, ?_⟩
  rw [exec, execExtPiecewiseRate, onExtension_at hf hs, readPiecewiseRate_fits hfit hF]
  rfl

end Sys2Proof.Machine
end

section
/-!
PROOFS. The bits that no value reads (R78). Each is outside the mask of what is read, so bytes that agree under the mask
give the same value; and an extension whose flags bytes agree on X[7:5] reads the same sub-fields at the same cursors,
since every reader after X looks only at bytes behind it.
-/
namespace Sys2Proof.Machine

/-! ### Bytes that agree under a mask -/

variable {x y m : Byte}

theorem getLsbD_of_and_eq {k : Nat} (h : x &&& m = y &&& m) (hm : m.getLsbD k = true) : x.getLsbD k = y.getLsbD k := by
  simpa [hm] using congrArg (·.getLsbD k) h

theorem getElem_of_and_eq {k : Nat} {hk : k < 8} (h : x &&& m = y &&& m) (hm : m.getLsbD k = true) : x[k] = y[k] :=
  getLsbD_of_and_eq h hm

/-- A bit range inside the mask. -/
theorem bits_of_and_eq {hi lo : Nat} (h : x &&& m = y &&& m) (hm : ∀ k < hi + 1, lo ≤ k → m.getLsbD k = true) :
    bits x hi lo = bits y hi lo := by
  apply Nat.eq_of_testBit_eq
  intro j
  simp only [bits, Nat.testBit_mod_two_pow, Nat.testBit_div_two_pow, BitVec.testBit_toNat]
  by_cases hj : j < hi + 1 - lo
  · rw [getLsbD_of_and_eq h (hm (j + lo) (by omega) (by omega))]
  · simp [hj]

/-- A mask inside the mask. -/
theorem and_eq_of_and_eq {m' : Byte} (h : x &&& m = y &&& m) (hm : m &&& m' = m') : x &&& m' = y &&& m' := by
  rw [← hm, ← BitVec.and_assoc, h, BitVec.and_assoc]

theorem shiftRight_four_eq_bits (b : Byte) : b.toNat >>> 4 = bits b 7 4 := by revert b; decide

/-! ### The values -/

variable {F F' : List Byte} {c : Nat}

/-- b4[6:1] of a clock reference (R65). -/
theorem clockRef_ignores (hl : F'.length = F.length) (h : ∀ i, i ≠ c + 4 → byteAt F' i = byteAt F i)
    (h4 : byteAt F' (c + 4) &&& 0x81#8 = byteAt F (c + 4) &&& 0x81#8) : clockRef F' c = clockRef F c := by
  have word : slice F' c (c + 4) = slice F c (c + 4) := slice_congr hl fun i _ hi => h i (by omega)
  have top : bits (byteAt F' (c + 4)) 7 7 = bits (byteAt F (c + 4)) 7 7 := bits_of_and_eq h4 (by decide)
  have low : bits (byteAt F' (c + 4)) 0 0 = bits (byteAt F (c + 4)) 0 0 := bits_of_and_eq h4 (by decide)
  simp only [clockRef, memRead, word, top, low, h (c + 5) (by omega)]

/-- b0[7:6] of a piecewise rate (R70). -/
theorem piecewiseRateValue_ignores (h : ∀ i, i ≠ c → byteAt F' i = byteAt F i)
    (h0 : byteAt F' c &&& 0x3F#8 = byteAt F c &&& 0x3F#8) : piecewiseRateValue F' c = piecewiseRateValue F c := by
  have high : bits (byteAt F' c) 5 0 = bits (byteAt F c) 5 0 := bits_of_and_eq h0 (by decide)
  simp only [piecewiseRateValue, high, h (c + 1) (by omega), h (c + 2) (by omega)]

/-- b0[3], b2[0] and b4[0] of a seamless splice (R71). -/
theorem seamlessSpliceValue_ignores (h : ∀ i, i ≠ c → i ≠ c + 2 → i ≠ c + 4 → byteAt F' i = byteAt F i)
    (h0 : byteAt F' c &&& 0xF7#8 = byteAt F c &&& 0xF7#8)
    (h2 : byteAt F' (c + 2) &&& 0xFE#8 = byteAt F (c + 2) &&& 0xFE#8)
    (h4 : byteAt F' (c + 4) &&& 0xFE#8 = byteAt F (c + 4) &&& 0xFE#8) :
    seamlessSpliceValue F' c = seamlessSpliceValue F c := by
  have type : bits (byteAt F' c) 7 4 = bits (byteAt F c) 7 4 := bits_of_and_eq h0 (by decide)
  have high : byteAt F' c &&& 0x07#8 = byteAt F c &&& 0x07#8 := and_eq_of_and_eq h0 (by decide)
  simp only [seamlessSpliceValue, shiftRight_four_eq_bits, type, high, h2, h4,
    h (c + 1) (by omega) (by omega) (by omega), h (c + 3) (by omega) (by omega) (by omega)]

/-- X[4:0] (R68): only X[7:5] select. -/
theorem decode_afextFlags_ignores (h : x &&& 0xE0#8 = y &&& 0xE0#8) :
    decode .afextFlags8 [x] = decode .afextFlags8 [y] := by
  have h7 : x[7] = y[7] := getElem_of_and_eq h (by decide)
  have h6 : x[6] = y[6] := getElem_of_and_eq h (by decide)
  have h5 : x[5] = y[5] := getElem_of_and_eq h (by decide)
  simp only [decode, decodeAfextFlags, h7, h6, h5]

/-! ### The extension -/

variable {α β : Type} {afEnd c' : Nat}

/-- Decodes in sequence agree if their first parts do, and their rests do wherever the first part ends. -/
theorem andThen_congr {r : Except FieldId (α × Nat)} {k k' : α → Nat → Except FieldId β}
    (h : ∀ v c, r = .ok (v, c) → k' v c = k v c) : andThen r k' = andThen r k := by
  cases r with
  | error f => rfl
  | ok v => exact h v.1 v.2 rfl

theorem decodeOptional_congr {flag : Bool} {rd rd' : Nat → Except FieldId (α × Nat)} (h : rd' c = rd c) :
    decodeOptional flag c rd' = decodeOptional flag c rd := by
  rw [decodeOptional, decodeOptional, h]

/-- The check looks at the frame's length only. -/
theorem claim_congr (hl : F'.length = F.length) (w : Nat) (f : FieldId) :
    claim F' afEnd c w f = claim F afEnd c w f := by
  simp only [claim, backstop, hl]

theorem readField_congr (hl : F'.length = F.length) (w : Nat) (f : FieldId) {v v' : α} (hv : v' = v) :
    readField F' afEnd c w f v' = readField F afEnd c w f v := by
  rw [readField, readField, claim_congr hl, hv]

/-- An optional part of fixed width does not move the cursor back. -/
theorem le_of_decodeOptional_ok {flag : Bool} {w : Nat} {f : FieldId} {value : Nat → α} {o : Option α}
    (h : decodeOptional flag c (fun c => readField F afEnd c w f (value c)) = .ok (o, c')) : c ≤ c' := by
  rcases of_decodeOptional_ok h with ⟨-, v, hr, -⟩ | ⟨-, -, rfl⟩
  · obtain ⟨-, -, hv⟩ := readField_ok_iff.mp hr
    cases hv
    omega
  · exact Nat.le_refl _

/-- X is read even if the region ends behind it, so the two headers differ in X only (R153, R154). -/
theorem readExtensionHeader_congr (hl : F'.length = F.length) (h : byteAt F' c = byteAt F c) :
    readExtensionHeader F' afEnd c =
      (readExtensionHeader F afEnd c).map fun r => ((r.1.1, byteAt F' (c + 1)), r.2) := by
  simp only [readExtensionHeader, readField, claim_congr hl, h]
  cases claim F afEnd c 1 .extensionLength with
  | error _ => rfl
  | ok _ => cases claim F afEnd (c + 1) 1 .extensionFlags <;> rfl

/-- The three sub-fields after X, on frames that agree behind X and for flags bytes that agree on X[7:5]. -/
theorem decodeExtension_ignores (hl : F'.length = F.length) (h : ∀ i, i ≠ c + 1 → byteAt F' i = byteAt F i)
    (hx : byteAt F' (c + 1) &&& 0xE0#8 = byteAt F (c + 1) &&& 0xE0#8) :
    decodeExtension F' afEnd c = decodeExtension F afEnd c := by
  have h7 : (byteAt F' (c + 1))[7] = (byteAt F (c + 1))[7] := getElem_of_and_eq hx (by decide)
  have h6 : (byteAt F' (c + 1))[6] = (byteAt F (c + 1))[6] := getElem_of_and_eq hx (by decide)
  have h5 : (byteAt F' (c + 1))[5] = (byteAt F (c + 1))[5] := getElem_of_and_eq hx (by decide)
  rw [decodeExtension, decodeExtension, readExtensionHeader_congr hl (h c (by omega))]
  cases hr : readExtensionHeader F afEnd c with
  | error f => rfl
  | ok r =>
    obtain ⟨-, -, rfl⟩ := readExtensionHeader_ok_iff.mp hr
    simp only [Except.map, andThen_ok, h7, h6, h5]
    have ltw : readLtw F' afEnd (c + 2) = readLtw F afEnd (c + 2) :=
      readField_congr hl _ _ (ltwValue_congr fun i hi _ => h i (by omega))
    rw [decodeOptional_congr ltw]
    refine andThen_congr fun _ c1 h1 => ?_
    have hc1 : c + 2 ≤ c1 := le_of_decodeOptional_ok h1
    have rate : readPiecewiseRate F' afEnd c1 = readPiecewiseRate F afEnd c1 :=
      readField_congr hl _ _ (piecewiseRateValue_congr fun i hi _ => h i (by omega))
    rw [decodeOptional_congr rate]
    refine andThen_congr fun _ c2 h2 => ?_
    have hc2 : c1 ≤ c2 := le_of_decodeOptional_ok h2
    have splice : readSeamlessSplice F' afEnd c2 = readSeamlessSplice F afEnd c2 :=
      readField_congr hl _ _ (seamlessSpliceValue_congr fun i hi _ => h i (by omega))
    rw [decodeOptional_congr splice]

/-- Settles O33: the three values, the selection by X, and the whole extension. -/
theorem ignoredBitsChangeNoValue : Obligations.IgnoredBitsChangeNoValue := fun _ _ _ hl =>
  ⟨clockRef_ignores hl, piecewiseRateValue_ignores, seamlessSpliceValue_ignores, fun _ _ => decode_afextFlags_ignores,
    fun _ => decodeExtension_ignores hl⟩

end Sys2Proof.Machine
end

section
/-!
PROOFS. The two host commands and the end of a FEED (R101 to R107): RESET whole, FEED up to its first frame, and what
the step that ends a frame or a FEED answers. Each is the state's operation, written out.
-/
namespace Sys2Proof.Machine

variable {s t : State} {w : FeedWork}

/-- Settles O14: between commands `execReset` runs. -/
theorem resetCommandEmptiesTheBuffer : Obligations.ResetCommandEmptiesTheBuffer := by
  intro s hf
  rw [exec, execReset, onIdle_idle hf]
  rfl

/-- Settles O15: the two cases of `beginFeed`. -/
theorem feedFillsOrCutsTheFirstFrame : Obligations.FeedFillsOrCutsTheFirstFrame := by
  intro s chunk hf hb
  rw [exec, execFeed, onIdle_idle hf]
  rcases beginFeed_cases chunk s with ⟨hlt, e⟩ | ⟨hge, e⟩ <;> rw [e]
  · refine ⟨fun _ => ⟨rfl, ?_⟩, fun _ => by omega⟩
    rw [List.length_append]
    omega
  · refine ⟨fun _ => by omega, fun _ => ⟨rfl, ?_⟩⟩
    rw [List.length_append, List.length_take]
    omega

theorem cursorAfterFrame_eq {cur : Nat} (hfirst : w.frameIndex = 0 → cur = w.cur)
    (hnext : w.frameIndex ≠ 0 → cur = w.cur + 188) : cursorAfterFrame w = cur := by
  unfold cursorAfterFrame
  split
  · exact (hfirst ‹_›).symm
  · exact (hnext ‹_›).symm

/-- Settles O16: the two cases of `finishFrame`. -/
theorem emittedRecordThenStrideOrRemainder : Obligations.EmittedRecordThenStrideOrRemainder := by
  intro s w rec cur hf hs hfirst hnext
  obtain rfl := cursorAfterFrame_eq hfirst hnext
  rw [step_assembled hf hs]
  rcases finishFrame_cases w rec s with ⟨hge, e⟩ | ⟨hlt, e⟩
  · rw [e, slice_width]
    exact ⟨fun _ => rfl, fun _ => by omega⟩
  · rw [e, slice_to_end]
    exact ⟨fun _ => by omega, fun _ => by simp [State.emit]⟩

/-- A record after which the FEED ends is output with `Done(OK)` (R104). -/
theorem finishFrame_output_of_ended {rec : TsPacket} (h : (finishFrame w rec s).feed = none) :
    (finishFrame w rec s).output = s.output ++ [.packet rec, .done .ok] := by
  rcases finishFrame_cases w rec s with ⟨-, e⟩ | ⟨-, e⟩ <;> rw [e] at h ⊢
  · cases h
  · simp

/-- Settles O48: a FEED ends by its last record or by an error; a move of its stage does not end it. -/
theorem feedEndsInSuccessOrRestoredBuffer : Obligations.FeedEndsInSuccessOrRestoredBuffer := by
  intro s t w hf h hend
  rcases step_next_cases h with ⟨hn, -⟩ | ⟨_, _, hn, -⟩ | ⟨v, hv, hstep⟩
  · cases hf.symm.trans hn
  · cases hf.symm.trans hn
  cases hf.symm.trans hv
  rcases hstep with ⟨st, rfl⟩ | ⟨k, f, rfl, -⟩ | ⟨rec, hrec, rfl⟩
  · cases hend
  · exact .inr ⟨k, f, rfl⟩
  · exact .inl ⟨rec, hrec, finishFrame_output_of_ended hend⟩

end Sys2Proof.Machine
end

section
/-!
PROOFS. FEED's loop over the whole byte string (R100, R106): `processFrames` cuts frame after frame off the front of
B ++ chunk, and the pseudocode's FEED, which keeps a cursor into the chunk, comes to the same (`feedTransaction_eq`).
What its records, its status and its B are is read off it by induction on the number of frames.
-/
namespace Sys2Proof.Machine

/-- A record emitted before the rest of a FEED. -/
def Transacted.cons (rec : TsPacket) (t : Transacted) : Transacted := { t with records := rec :: t.records }

@[simp] theorem Transacted.cons_records (rec : TsPacket) (t : Transacted) :
    (t.cons rec).records = rec :: t.records := rfl
@[simp] theorem Transacted.cons_status (rec : TsPacket) (t : Transacted) : (t.cons rec).status = t.status := rfl
@[simp] theorem Transacted.cons_buffer (rec : TsPacket) (t : Transacted) : (t.cons rec).buffer = t.buffer := rfl

/-- The next `k` frames of the bytes `S`, the first of them with index `j`; what is left becomes B, or B0 after an
error. -/
def processFrames (saved : List Byte) : Nat → Nat → List Byte → Transacted
  | 0, _, S => { records := [], status := .ok, buffer := S }
  | k + 1, j, S =>
    match assemble (S.take 188) with
    | .error e => { records := [], status := .err e.kind j e.field, buffer := saved }
    | .ok rec => (processFrames saved k (j + 1) (S.drop 188)).cons rec

variable {saved S : List Byte} {k j : Nat}

@[simp] theorem processFrames_zero :
    processFrames saved 0 j S = { records := [], status := .ok, buffer := S } := rfl

theorem processFrames_of_error {e : Raised} (h : assemble (S.take 188) = .error e) :
    processFrames saved (k + 1) j S = { records := [], status := .err e.kind j e.field, buffer := saved } := by
  simp only [processFrames, h]

theorem processFrames_of_ok {rec : TsPacket} (h : assemble (S.take 188) = .ok rec) :
    processFrames saved (k + 1) j S = (processFrames saved k (j + 1) (S.drop 188)).cons rec := by
  simp only [processFrames, h]

/-! ### The pseudocode's loop -/

/-- With fewer than 188 bytes left the loop is over (R104). -/
theorem stride_of_lt {chunk : List Byte} {cur : Nat} (fuel : Nat) (h : chunk.length - cur < 188) :
    stride saved chunk fuel cur j = { records := [], status := .ok, buffer := chunk.drop cur } := by
  cases fuel with
  | zero => rw [stride, slice_to_end]
  | succ fuel => rw [stride, if_neg (by omega), slice_to_end]

/-- The loop at its cursor takes the frames of the chunk from there on (R103). -/
theorem stride_eq_processFrames {chunk : List Byte} (fuel : Nat) :
    ∀ cur j, (chunk.length - cur) / 188 ≤ fuel →
      stride saved chunk fuel cur j = processFrames saved ((chunk.length - cur) / 188) j (chunk.drop cur) := by
  induction fuel with
  | zero =>
    intro cur j hfuel
    rw [stride_of_lt 0 (by omega), Nat.div_eq_of_lt (by omega), processFrames_zero]
  | succ fuel ih =>
    intro cur j hfuel
    by_cases hn : chunk.length - cur < 188
    · rw [stride_of_lt _ hn, Nat.div_eq_of_lt hn, processFrames_zero]
    have hk : (chunk.length - cur) / 188 = (chunk.length - (cur + 188)) / 188 + 1 := by omega
    rw [stride, if_pos (by omega), slice_width, hk]
    cases ha : assemble ((chunk.drop cur).take 188) with
    | error e => rw [processFrames_of_error ha]
    | ok rec =>
      rw [processFrames_of_ok ha, List.drop_drop, ← ih (cur + 188) (j + 1) (by omega)]
      rfl

/-- FEED is its loop over B and the chunk as one string (R100, R106). -/
theorem feedTransaction_eq {buffer : List Byte} (chunk : List Byte) (hb : buffer.length ≤ 187) :
    feedTransaction buffer chunk =
      processFrames buffer ((buffer ++ chunk).length / 188) 0 (buffer ++ chunk) := by
  rw [List.length_append]
  by_cases hn : buffer.length + chunk.length < 188
  · rw [feedTransaction, if_pos hn, Nat.div_eq_of_lt hn, processFrames_zero]
  have hk : (buffer.length + chunk.length) / 188 = (chunk.length - (188 - buffer.length)) / 188 + 1 := by omega
  have htake : buffer ++ slice chunk 0 (188 - buffer.length) = (buffer ++ chunk).take 188 := by
    rw [List.take_append, List.take_of_length_le (by omega), slice, List.drop_zero, Nat.sub_zero]
  have hdrop : (buffer ++ chunk).drop 188 = chunk.drop (188 - buffer.length) := by
    rw [List.drop_append, List.drop_of_length_le (by omega), List.nil_append]
  rw [feedTransaction, if_neg hn, htake, hk]
  cases ha : assemble ((buffer ++ chunk).take 188) with
  | error e => rw [processFrames_of_error ha]
  | ok rec =>
    rw [processFrames_of_ok ha, hdrop, ← stride_eq_processFrames chunk.length _ _ (by omega)]
    rfl

/-! ### The frames of a byte string -/

/-- Frame `i` of the bytes `S`. -/
def frameAt (S : List Byte) (i : Nat) : List Byte := (S.drop (188 * i)).take 188

@[simp] theorem frameAt_zero (S : List Byte) : frameAt S 0 = S.take 188 := rfl

/-- The frames after the first `n` are the frames of the bytes after them. -/
theorem frameAt_drop (S : List Byte) (n i : Nat) : frameAt (S.drop (188 * n)) i = frameAt S (n + i) := by
  rw [frameAt, frameAt, List.drop_drop, ← Nat.mul_add]

theorem frameAt_succ (S : List Byte) (i : Nat) : frameAt (S.drop 188) i = frameAt S (i + 1) := by
  rw [Nat.add_comm]
  exact frameAt_drop S 1 i

/-- A whole frame of a string is a frame of every string it begins. -/
theorem frameAt_append {S : List Byte} {i : Nat} (hi : i < S.length / 188) (T : List Byte) :
    frameAt (S ++ T) i = frameAt S i := by
  rw [frameAt, frameAt, List.drop_append_of_le_length (by omega),
    List.take_append_of_le_length (by rw [List.length_drop]; omega)]

/-- A FEED's records are those of the first frames, in order (R105). -/
theorem processFrames_records (saved S : List Byte) (k j : Nat) :
    (processFrames saved k j S).records.map Except.ok =
      (List.range (processFrames saved k j S).records.length).map fun i => assemble (frameAt S i) := by
  induction k generalizing j S with
  | zero => rfl
  | succ k ih =>
    cases ha : assemble (S.take 188) with
    | error e => rw [processFrames_of_error ha]; rfl
    | ok rec =>
      rw [processFrames_of_ok ha, Transacted.cons_records, List.map_cons, ih, List.length_cons,
        List.range_succ_eq_map, List.map_cons, List.map_map, frameAt_zero, ha]
      simp only [frameAt_succ, Function.comp_def]

/-- Without an error every frame has its record, and the bytes after them are B (R104). -/
theorem processFrames_ended_ok (h : (processFrames saved k j S).status = .ok) :
    (processFrames saved k j S).records.length = k ∧ (processFrames saved k j S).buffer = S.drop (188 * k) := by
  induction k generalizing j S with
  | zero => exact ⟨rfl, rfl⟩
  | succ k ih =>
    cases ha : assemble (S.take 188) with
    | error e => rw [processFrames_of_error ha] at h; cases h
    | ok rec =>
      rw [processFrames_of_ok ha] at h ⊢
      obtain ⟨hlen, hbuf⟩ := ih h
      refine ⟨congrArg (· + 1) hlen, ?_⟩
      rw [Transacted.cons_buffer, hbuf, List.drop_drop, Nat.mul_succ, Nat.add_comm]

/-- With an error B is B0 again, and the frame after the last record is the one that raised it (R105). -/
theorem processFrames_ended_err {kind : ErrorKind} {n : Nat} {field : FieldId}
    (h : (processFrames saved k j S).status = .err kind n field) :
    (processFrames saved k j S).buffer = saved ∧ (processFrames saved k j S).records.length < k ∧
      n = j + (processFrames saved k j S).records.length ∧
      assemble (frameAt S (processFrames saved k j S).records.length) = .error { kind := kind, field := field } := by
  induction k generalizing j S with
  | zero => cases h
  | succ k ih =>
    cases ha : assemble (S.take 188) with
    | error e =>
      rw [processFrames_of_error ha] at h ⊢
      cases h
      exact ⟨rfl, Nat.succ_pos k, rfl, ha⟩
    | ok rec =>
      rw [processFrames_of_ok ha] at h ⊢
      obtain ⟨hbuf, hlen, hn, hass⟩ := ih h
      rw [frameAt_succ] at hass
      exact ⟨hbuf, Nat.succ_lt_succ hlen, by rw [hn, Transacted.cons_records, List.length_cons]; omega, hass⟩

/-! ### The closed form -/

/-- Every whole frame of `S` assembles. -/
def FramesAssemble (S : List Byte) : Prop := ∀ i < S.length / 188, ∃ r, assemble (frameAt S i) = .ok r

/-- R106's closed form of a FEED of the bytes `S` without an error. -/
structure Transacted.ClosedForm (S : List Byte) (t : Transacted) : Prop where
  status : t.status = .ok
  buffer : t.buffer = S.drop (188 * (S.length / 188))
  records : t.records.map Except.ok = (List.range (S.length / 188)).map fun i => assemble (frameAt S i)

variable {buffer chunk T : List Byte} {t t' : Transacted}

/-- A FEED whose frames all assemble raises no error (R105). -/
theorem feedTransaction_status_ok (hb : buffer.length ≤ 187) (h : FramesAssemble (buffer ++ chunk)) :
    (feedTransaction buffer chunk).status = .ok := by
  rw [feedTransaction_eq chunk hb]
  cases hs : (processFrames buffer ((buffer ++ chunk).length / 188) 0 (buffer ++ chunk)).status with
  | ok => rfl
  | err kind n field =>
    obtain ⟨-, hlt, -, herr⟩ := processFrames_ended_err hs
    obtain ⟨r, hr⟩ := h _ hlt
    cases herr.symm.trans hr

theorem feedTransaction_closedForm (hb : buffer.length ≤ 187) (h : (feedTransaction buffer chunk).status = .ok) :
    (feedTransaction buffer chunk).ClosedForm (buffer ++ chunk) := by
  rw [feedTransaction_eq chunk hb] at h ⊢
  obtain ⟨hlen, hbuf⟩ := processFrames_ended_ok h
  refine ⟨h, hbuf, ?_⟩
  rw [processFrames_records, hlen]

/-- Settles O40: no frame raises an error, so each has its record and the bytes after them are B. -/
theorem errorFreeFeedHasTheClosedForm : Obligations.ErrorFreeFeedHasTheClosedForm := by
  intro buffer chunk hb h
  obtain ⟨hstatus, hbuffer, hrecords⟩ := feedTransaction_closedForm hb (feedTransaction_status_ok hb h)
  exact ⟨hstatus, hbuffer, hrecords⟩

/-- Settles O42: the error is that of the frame after the last record. -/
theorem failedFeedRestoresTheBuffer : Obligations.FailedFeedRestoresTheBuffer := by
  intro buffer chunk kind j field hb h
  rw [feedTransaction_eq chunk hb] at h ⊢
  obtain ⟨hbuf, -, rfl, herr⟩ := processFrames_ended_err h
  rw [Nat.zero_add]
  exact ⟨hbuf, rfl, herr, processFrames_records ..⟩

theorem feedTransaction_nil (hb : buffer.length ≤ 187) :
    feedTransaction buffer [] = { records := [], status := .ok, buffer := buffer } := by
  rw [feedTransaction_eq [] hb, List.append_nil, Nat.div_eq_of_lt (by omega), processFrames_zero]

theorem feedTransaction_exact (hb : buffer.length ≤ 187) (hc : chunk.length = 188 - buffer.length) {r : TsPacket}
    (hr : assemble (buffer ++ chunk) = .ok r) :
    feedTransaction buffer chunk = { records := [r], status := .ok, buffer := [] } := by
  have hlen : (buffer ++ chunk).length = 188 := by rw [List.length_append]; omega
  have htake : assemble ((buffer ++ chunk).take 188) = .ok r := by rwa [List.take_of_length_le (by omega)]
  rw [feedTransaction_eq chunk hb, hlen, Nat.div_self (by decide), processFrames_of_ok htake,
    List.drop_of_length_le (by omega)]
  rfl

/-- Settles O43: no whole frame in B alone, and exactly one in B with the chunk. -/
theorem emptyAndExactChunks : Obligations.EmptyAndExactChunks :=
  fun _ _ hb => ⟨feedTransaction_nil hb, fun hc _ hr => feedTransaction_exact hb hc hr⟩

/-! ### Chunk boundaries -/

/-- The closed form determines the transaction. -/
theorem Transacted.ClosedForm.unique (h : t.ClosedForm S) (h' : t'.ClosedForm S) : t = t' := by
  have hrec : t.records = t'.records :=
    (List.map_inj_right fun _ _ => Except.ok.inj).mp (h.records.trans h'.records.symm)
  obtain ⟨_, _, _⟩ := t
  obtain ⟨_, _, _⟩ := t'
  cases hrec
  cases h.status.trans h'.status.symm
  cases h.buffer.trans h'.buffer.symm
  rfl

/-- A stream's whole frames: those of its first part, then those of the bytes it leaves with the second part. -/
theorem frames_append (S T : List Byte) :
    (S ++ T).length / 188 = S.length / 188 + (S.drop (188 * (S.length / 188)) ++ T).length / 188 := by
  simp only [List.length_append, List.length_drop]
  omega

theorem drop_append_whole (S T : List Byte) :
    S.drop (188 * (S.length / 188)) ++ T = (S ++ T).drop (188 * (S.length / 188)) := by
  rw [List.drop_append_of_le_length (by omega)]

/-- One FEED after another is the FEED of both (R106). -/
theorem Transacted.ClosedForm.append (h : t.ClosedForm S) (h' : t'.ClosedForm (t.buffer ++ T)) :
    Transacted.ClosedForm (S ++ T) { t' with records := t.records ++ t'.records } where
  status := h'.status
  buffer := by
    rw [h'.buffer, frames_append S T, h.buffer, drop_append_whole, List.drop_drop, ← Nat.mul_add]
  records := by
    have hS : ∀ i ∈ List.range (S.length / 188), assemble (frameAt S i) = assemble (frameAt (S ++ T) i) :=
      fun i hi => by rw [frameAt_append (List.mem_range.mp hi)]
    rw [List.map_append, h.records, h'.records, frames_append S T, List.range_add, List.map_append, List.map_map,
      List.map_congr_left hS, h.buffer, drop_append_whole]
    simp only [frameAt_drop, Function.comp_def]

/-- Where the stream's frames all assemble, so do those of its first part and those after it. -/
theorem FramesAssemble.of_append (h : FramesAssemble (S ++ T)) :
    FramesAssemble S ∧ FramesAssemble (S.drop (188 * (S.length / 188)) ++ T) := by
  have hk := frames_append S T
  refine ⟨fun i hi => ?_, fun i hi => ?_⟩
  · rw [← frameAt_append hi T]
    exact h i (by omega)
  · rw [drop_append_whole, frameAt_drop]
    exact h _ (by omega)

theorem framesAssemble_of_status_ok (hb : buffer.length ≤ 187) (h : (feedTransaction buffer chunk).status = .ok) :
    FramesAssemble (buffer ++ chunk) := by
  intro i hi
  have hmem : assemble (frameAt (buffer ++ chunk) i) ∈ (feedTransaction buffer chunk).records.map Except.ok := by
    rw [(feedTransaction_closedForm hb h).records]
    exact List.mem_map_of_mem (List.mem_range.mpr hi)
  obtain ⟨r, -, hr⟩ := List.mem_map.mp hmem
  exact ⟨r, hr.symm⟩

/-- A run of FEEDs without an error has the closed form of the whole stream, by induction on the chunks. -/
theorem feedChunks_closedForm (chunks : List (List Byte)) (hb : buffer.length ≤ 187)
    (h : FramesAssemble (buffer ++ chunks.flatten)) :
    (feedChunks buffer chunks).ClosedForm (buffer ++ chunks.flatten) := by
  induction chunks generalizing buffer with
  | nil =>
    have hnil := feedTransaction_closedForm hb (congrArg Transacted.status (feedTransaction_nil hb))
    rwa [feedTransaction_nil hb] at hnil
  | cons c cs ih =>
    rw [List.flatten_cons, ← List.append_assoc] at h ⊢
    obtain ⟨hfirst, hrest⟩ := h.of_append
    have hc := feedTransaction_closedForm hb (feedTransaction_status_ok hb hfirst)
    have hb' : (feedTransaction buffer c).buffer.length ≤ 187 := by
      rw [hc.buffer, List.length_drop]
      omega
    rw [← hc.buffer] at hrest
    simp only [feedChunks, hc.status]
    exact hc.append (ih hb' hrest)

/-- Settles O41: the run and the one FEED have the same closed form. -/
theorem recordsDoNotDependOnChunkBoundaries : Obligations.RecordsDoNotDependOnChunkBoundaries :=
  fun _ chunks hb h =>
    (feedChunks_closedForm chunks hb (framesAssemble_of_status_ok hb h)).unique (feedTransaction_closedForm hb h)

end Sys2Proof.Machine
end

section
/-!
PROOFS. The decode of a frame by steps is ASSEMBLE (R120, R140, R180): each stage has the result the pseudocode still
comes to from there (`Stage.result`), a step keeps that result or raises its error, and leaves fewer steps to go.
-/
namespace Sys2Proof.Machine

/-! ### What the pseudocode comes to from a stage -/

/-- The record of frame `F` with header `h`, once its adaptation field is decoded (R180). -/
def assembleWith (F : List Byte) (h : Header) : Except FieldId AdaptationField → Except Raised TsPacket
  | .ok af => .ok (assembleRecord F h (some af))
  | .error f => .error { kind := .malformedFieldError, field := f }

/-- The rest of DECODE_AF where the sub-fields of `b.todo` are still to be considered (R146, R161). -/
def restOfBody (F : List Byte) (b : BodyWork) : Except FieldId AdaptationField :=
  andThen (decodeOptional b.todo[4] b.cursor (fun c => readClockRef F b.afEnd c .pcr)) fun pcr c =>
  andThen (decodeOptional b.todo[3] c (fun c => readClockRef F b.afEnd c .opcr)) fun opcr c =>
  andThen (decodeOptional b.todo[2] c (readSpliceCountdown F b.afEnd)) fun sc c =>
  andThen (decodeOptional b.todo[1] c (readPrivateData F b.afEnd)) fun pd c =>
  andThen (decodeOptional b.todo[0] c (decodeExtension F b.afEnd)) fun ext _ =>
  .ok
    { length := b.length
      body := some (bodyOf
        { b with
          pcr := pcr.or b.pcr
          opcr := opcr.or b.opcr
          spliceCountdown := sc.or b.spliceCountdown
          privateData := pd.or b.privateData
          extension := ext.or b.extension }) }

/-- The rest of DECODE_AF where the extension sub-fields of `x.todo` are still to be considered (R152, R160). -/
def restOfExtension (F : List Byte) (b : BodyWork) (x : ExtWork) : Except FieldId AdaptationField :=
  andThen (decodeOptional x.todo[7] b.cursor (readLtw F b.afEnd)) fun ltw c =>
  andThen (decodeOptional x.todo[6] c (readPiecewiseRate F b.afEnd)) fun rate c =>
  andThen (decodeOptional x.todo[5] c (readSeamlessSplice F b.afEnd)) fun splice c =>
  restOfBody F
    { b with
      cursor := c
      extension := some
        { length := x.length
          ltw := ltw.or x.ltw
          piecewiseRate := rate.or x.piecewiseRate
          seamlessSplice := splice.or x.seamlessSplice } }

/-- What ASSEMBLE comes to on frame `F` from where its decode stands. -/
def Stage.result (F : List Byte) : Stage → Except Raised TsPacket
  | .header => assemble F
  | .afLength h => assembleWith F h (decodeAf F)
  | .subfields h b => assembleWith F h (restOfBody F b)
  | .extension h b x => assembleWith F h (restOfExtension F b x)
  | .assembled rec => .ok rec

/-! ### One part of the pseudocode at a time -/

variable {F : List Byte} {b : BodyWork} {x : ExtWork}

section
variable {α β γ : Type} {c : Nat}

theorem andThen_decodeOptional_true (rd : Nat → Except FieldId (α × Nat)) (k : Option α → Nat → Except FieldId β) :
    andThen (decodeOptional true c rd) k = andThen (rd c) fun v c => k (some v) c := by
  rw [decodeOptional, if_pos rfl]
  cases rd c <;> rfl

theorem andThen_andThen (r : Except FieldId (α × Nat)) (k : α → Nat → Except FieldId (β × Nat))
    (k' : β → Nat → Except FieldId γ) :
    andThen (andThen r k) k' = andThen r fun v c => andThen (k v c) k' := by
  cases r <;> rfl

end

theorem assemble_of_header {h : Header} (hh : decodeHeader F = .ok h) :
    assemble F =
      if h.adaptationFieldControl[1] then assembleWith F h (decodeAf F) else .ok (assembleRecord F h none) := by
  simp only [assemble, hh]
  split
  · cases decodeAf F <;> rfl
  · rfl

theorem decodeAf_empty (h0 : byteAt F 4 = 0#8) : decodeAf F = .ok { length := 0#8, body := none } := by
  simp [decodeAf, h0]

/-- A body of the adaptation field: its start, and then every flag is still to be considered (R142, R143, R145). -/
theorem decodeAf_body (h0 : byteAt F 4 ≠ 0#8) (hF : 6 ≤ F.length) :
    decodeAf F = (readBodyStart F (byteAt F 4)).bind (restOfBody F) := by
  have hne : (byteAt F 4).toNat ≠ 0 := fun e => h0 (BitVec.eq_of_toNat_eq e)
  by_cases hmax : 183 < (byteAt F 4).toNat
  · simp [decodeAf, readBodyStart, hne, hmax, Except.bind]
  · simp [decodeAf, readBodyStart, backstop, hne, hmax, hF, Except.bind, decodeBody, restOfBody, andThen_andThen,
      bodyOf]

theorem restOfBody_pcr (h4 : b.todo[4] = true) :
    restOfBody F b = andThen (readClockRef F b.afEnd b.cursor .pcr) fun v c =>
      restOfBody F { b with pcr := some v, cursor := c, todo := clearFlag b.todo 4 } := by
  simp [restOfBody, h4, andThen_decodeOptional_true, bodyOf]

theorem restOfBody_opcr (h4 : b.todo[4] = false) (h3 : b.todo[3] = true) :
    restOfBody F b = andThen (readClockRef F b.afEnd b.cursor .opcr) fun v c =>
      restOfBody F { b with opcr := some v, cursor := c, todo := clearFlag b.todo 3 } := by
  simp [restOfBody, h4, h3, andThen_decodeOptional_true, bodyOf]

theorem restOfBody_spliceCountdown (h4 : b.todo[4] = false) (h3 : b.todo[3] = false) (h2 : b.todo[2] = true) :
    restOfBody F b = andThen (readSpliceCountdown F b.afEnd b.cursor) fun v c =>
      restOfBody F { b with spliceCountdown := some v, cursor := c, todo := clearFlag b.todo 2 } := by
  simp [restOfBody, h4, h3, h2, andThen_decodeOptional_true, bodyOf]

theorem restOfBody_privateData (h4 : b.todo[4] = false) (h3 : b.todo[3] = false) (h2 : b.todo[2] = false)
    (h1 : b.todo[1] = true) :
    restOfBody F b = andThen (readPrivateData F b.afEnd b.cursor) fun v c =>
      restOfBody F { b with privateData := some v, cursor := c, todo := clearFlag b.todo 1 } := by
  simp [restOfBody, h4, h3, h2, h1, andThen_decodeOptional_true, bodyOf]

theorem restOfBody_done (h4 : b.todo[4] = false) (h3 : b.todo[3] = false) (h2 : b.todo[2] = false)
    (h1 : b.todo[1] = false) (h0 : b.todo[0] = false) :
    restOfBody F b = .ok { length := b.length, body := some (bodyOf b) } := by
  simp [restOfBody, h4, h3, h2, h1, h0]

theorem restOfBody_extension (h4 : b.todo[4] = false) (h3 : b.todo[3] = false) (h2 : b.todo[2] = false)
    (h1 : b.todo[1] = false) (h0 : b.todo[0] = true) :
    restOfBody F b = andThen (readExtensionHeader F b.afEnd b.cursor) fun v c =>
      restOfExtension F { b with cursor := c, todo := clearFlag b.todo 0 }
        { length := v.1, todo := v.2, ltw := none, piecewiseRate := none, seamlessSplice := none } := by
  simp [restOfBody, restOfExtension, decodeExtension, h4, h3, h2, h1, h0, andThen_decodeOptional_true,
    andThen_andThen, bodyOf]

theorem restOfExtension_ltw (h7 : x.todo[7] = true) :
    restOfExtension F b x = andThen (readLtw F b.afEnd b.cursor) fun v c =>
      restOfExtension F { b with cursor := c } { x with ltw := some v, todo := clearFlag x.todo 7 } := by
  simp [restOfExtension, h7, andThen_decodeOptional_true]

theorem restOfExtension_piecewiseRate (h7 : x.todo[7] = false) (h6 : x.todo[6] = true) :
    restOfExtension F b x = andThen (readPiecewiseRate F b.afEnd b.cursor) fun v c =>
      restOfExtension F { b with cursor := c } { x with piecewiseRate := some v, todo := clearFlag x.todo 6 } := by
  simp [restOfExtension, h7, h6, andThen_decodeOptional_true]

theorem restOfExtension_seamlessSplice (h7 : x.todo[7] = false) (h6 : x.todo[6] = false) (h5 : x.todo[5] = true) :
    restOfExtension F b x = andThen (readSeamlessSplice F b.afEnd b.cursor) fun v c =>
      restOfExtension F { b with cursor := c } { x with seamlessSplice := some v, todo := clearFlag x.todo 5 } := by
  simp [restOfExtension, h7, h6, h5, andThen_decodeOptional_true]

theorem restOfExtension_done (h7 : x.todo[7] = false) (h6 : x.todo[6] = false) (h5 : x.todo[5] = false) :
    restOfExtension F b x = restOfBody F
      { b with extension := some { length := x.length, ltw := x.ltw, piecewiseRate := x.piecewiseRate,
                                   seamlessSplice := x.seamlessSplice } } := by
  simp [restOfExtension, h7, h6, h5]

/-! ### One step -/

/-- The steps a body's decode has still to take: one for each flag, five for an extension with all of its flags, and one
to close the record. -/
def BodyWork.stepsLeft (b : BodyWork) : Nat :=
  b.todo[4].toNat + b.todo[3].toNat + b.todo[2].toNat + b.todo[1].toNat + 5 * b.todo[0].toNat + 1

/-- The steps to the record at most (log 1). -/
def Stage.stepsLeft : Stage → Nat
  | .header => 12
  | .afLength _ => 11
  | .subfields _ b => b.stepsLeft
  | .extension _ b x => x.todo[7].toNat + x.todo[6].toNat + x.todo[5].toNat + 1 + b.stepsLeft
  | .assembled _ => 0

theorem BodyWork.stepsLeft_le (b : BodyWork) : b.stepsLeft ≤ 10 := by
  have := b.todo[4].toNat_le
  have := b.todo[3].toNat_le
  have := b.todo[2].toNat_le
  have := b.todo[1].toNat_le
  have := b.todo[0].toNat_le
  rw [BodyWork.stepsLeft]
  omega

/-- Where an error is still to come, so is a step. -/
theorem Stage.stepsLeft_pos {st : Stage} {e : Raised} (h : st.result F = .error e) : 0 < st.stepsLeft := by
  cases st with
  | header | afLength => exact Nat.succ_pos _
  | subfields => exact Nat.succ_pos _
  | extension => exact Nat.add_pos_left (Nat.succ_pos _) _
  | assembled => cases h

/-- A step of the decode that keeps the result and comes nearer to it, or raises the error that is the result. -/
def StepDecodes (w : FeedWork) (s : State) (o : Host.Outcome State Fault Refusal) : Prop :=
  (∃ st, o = .next (s.setStage w st) ∧ st.result w.frame = w.stage.result w.frame ∧
    st.stepsLeft < w.stage.stepsLeft) ∨
  ∃ e, w.stage.result w.frame = .error e ∧ o = .next (raise w e.kind e.field s)

variable {s t u : State} {w : FeedWork} {h : Header}

theorem stepDecodes_of_move {st st' : Stage} (hs : w.stage = st) (hres : st.result w.frame = st'.result w.frame)
    (hl : st'.stepsLeft < st.stepsLeft) : StepDecodes w s (.next (s.setStage w st')) :=
  .inl ⟨st', rfl, by rw [hs, hres], by rwa [hs]⟩

/-- A structure that ends in `advance`: the pseudocode reads the same part and goes on alike (R144, R146). -/
theorem stepDecodes_advance {β : Type} {st : Stage} {r : Except FieldId β} {g : β → Stage}
    {rest : β → Except FieldId AdaptationField} (hs : w.stage = st)
    (hres : st.result w.frame = assembleWith w.frame h (r.bind rest))
    (hg : ∀ v, (g v).result w.frame = assembleWith w.frame h (rest v))
    (hl : ∀ v, (g v).stepsLeft < st.stepsLeft) : StepDecodes w s (advance w (r.map g) s) := by
  cases r with
  | ok v => exact stepDecodes_of_move hs (hres.trans (hg v).symm) (hl v)
  | error f => exact .inr ⟨{ kind := .malformedFieldError, field := f }, by rw [hs, hres]; rfl, rfl⟩

/-- A sub-field's structure: its reader is the pseudocode's next part. -/
theorem stepDecodes_read {α : Type} {st : Stage} {r : Except FieldId (α × Nat)} {g : α × Nat → Stage}
    {rest : α → Nat → Except FieldId AdaptationField} (hs : w.stage = st)
    (hres : st.result w.frame = assembleWith w.frame h (andThen r rest))
    (hg : ∀ v, (g v).result w.frame = assembleWith w.frame h (rest v.1 v.2))
    (hl : ∀ v, (g v).stepsLeft < st.stepsLeft) : StepDecodes w s (advance w (r.map g) s) :=
  stepDecodes_advance (rest := fun v => rest v.1 v.2) hs (hres.trans (by cases r <;> rfl)) hg hl

theorem stepDecodes_header (hf : s.feed = some w) (hs : w.stage = .header) (hF : 4 ≤ w.frame.length) :
    StepDecodes w s (step s) := by
  rw [step_header hf hs]
  rcases decode_header_word hF with ⟨h, hh, hd⟩ | ⟨h0, hd⟩ <;> simp only [hd]
  · rw [exec_packetKind hf hs]
    have hres := assemble_of_header hh
    cases hc : h.adaptationFieldControl[1] <;> rw [hc] at hres
    · exact stepDecodes_of_move hs hres (by simp [Stage.stepsLeft])
    · exact stepDecodes_of_move hs hres (by simp [Stage.stepsLeft])
  · refine .inr ⟨{ kind := .syncError, field := .noField }, ?_, rfl⟩
    simp [hs, Stage.result, assemble, decodeHeader, h0]

theorem stepDecodes_afLength (hf : s.feed = some w) (hs : w.stage = .afLength h) (hF : 6 ≤ w.frame.length) :
    StepDecodes w s (step s) := by
  rw [step_afLength hf hs (by omega)]
  by_cases h0 : byteAt w.frame 4 = 0#8
  · rw [if_pos h0, exec, execAfEmpty, onAfLength_at hf hs]
    exact stepDecodes_of_move hs (congrArg (assembleWith w.frame h) (decodeAf_empty h0)) (by simp [Stage.stepsLeft])
  · rw [if_neg h0, exec, execAfBody, onAfLength_at hf hs]
    exact stepDecodes_advance hs (congrArg (assembleWith w.frame h) (decodeAf_body h0 hF)) (fun _ => rfl)
      fun b => Nat.lt_succ_of_le b.stepsLeft_le

theorem stepDecodes_subfields (hf : s.feed = some w) (hs : w.stage = .subfields h b) :
    StepDecodes w s (step s) := by
  rw [step_subfields hf hs]
  by_cases h4 : b.todo[4] = true
  · rw [if_pos h4, exec, execAfPcr, onSubfields_at hf hs]
    exact stepDecodes_read hs (congrArg (assembleWith w.frame h) (restOfBody_pcr h4)) (fun _ => rfl)
      fun _ => by simp [Stage.stepsLeft, BodyWork.stepsLeft, h4]
  rw [if_neg h4]
  rw [Bool.not_eq_true] at h4
  by_cases h3 : b.todo[3] = true
  · rw [if_pos h3, exec, execAfOpcr, onSubfields_at hf hs]
    exact stepDecodes_read hs (congrArg (assembleWith w.frame h) (restOfBody_opcr h4 h3)) (fun _ => rfl)
      fun _ => by simp [Stage.stepsLeft, BodyWork.stepsLeft, h3]
  rw [if_neg h3]
  rw [Bool.not_eq_true] at h3
  by_cases h2 : b.todo[2] = true
  · rw [if_pos h2, exec, execAfSpliceCountdown, onSubfields_at hf hs]
    exact stepDecodes_read hs (congrArg (assembleWith w.frame h) (restOfBody_spliceCountdown h4 h3 h2)) (fun _ => rfl)
      fun _ => by simp [Stage.stepsLeft, BodyWork.stepsLeft, h2]
  rw [if_neg h2]
  rw [Bool.not_eq_true] at h2
  by_cases h1 : b.todo[1] = true
  · rw [if_pos h1, exec, execAfPrivateData, onSubfields_at hf hs]
    exact stepDecodes_read hs (congrArg (assembleWith w.frame h) (restOfBody_privateData h4 h3 h2 h1)) (fun _ => rfl)
      fun _ => by simp [Stage.stepsLeft, BodyWork.stepsLeft, h1]
  rw [if_neg h1]
  rw [Bool.not_eq_true] at h1
  by_cases h0 : b.todo[0] = true
  · rw [if_pos h0, exec, execAfExtension, onSubfields_at hf hs]
    refine stepDecodes_read hs (congrArg (assembleWith w.frame h) (restOfBody_extension h4 h3 h2 h1 h0)) (fun _ => rfl)
      fun v => ?_
    have := v.1.2[7].toNat_le
    have := v.1.2[6].toNat_le
    have := v.1.2[5].toNat_le
    simp [Stage.stepsLeft, BodyWork.stepsLeft, h4, h3, h2, h1, h0]
    omega
  rw [if_neg h0]
  rw [Bool.not_eq_true] at h0
  exact stepDecodes_of_move hs (congrArg (assembleWith w.frame h) (restOfBody_done h4 h3 h2 h1 h0))
    (by simp [Stage.stepsLeft, BodyWork.stepsLeft])

theorem stepDecodes_extension (hf : s.feed = some w) (hs : w.stage = .extension h b x) :
    StepDecodes w s (step s) := by
  rw [step_extension hf hs]
  by_cases h7 : x.todo[7] = true
  · rw [if_pos h7, exec, execExtLtw, onExtension_at hf hs]
    exact stepDecodes_read hs (congrArg (assembleWith w.frame h) (restOfExtension_ltw h7)) (fun _ => rfl)
      fun _ => by simp [Stage.stepsLeft, BodyWork.stepsLeft, h7]
  rw [if_neg h7]
  rw [Bool.not_eq_true] at h7
  by_cases h6 : x.todo[6] = true
  · rw [if_pos h6, exec, execExtPiecewiseRate, onExtension_at hf hs]
    exact stepDecodes_read hs (congrArg (assembleWith w.frame h) (restOfExtension_piecewiseRate h7 h6)) (fun _ => rfl)
      fun _ => by simp [Stage.stepsLeft, BodyWork.stepsLeft, h6]
  rw [if_neg h6]
  rw [Bool.not_eq_true] at h6
  by_cases h5 : x.todo[5] = true
  · rw [if_pos h5, exec, execExtSeamlessSplice, onExtension_at hf hs]
    exact stepDecodes_read hs (congrArg (assembleWith w.frame h) (restOfExtension_seamlessSplice h7 h6 h5))
      (fun _ => rfl) fun _ => by simp [Stage.stepsLeft, BodyWork.stepsLeft, h5]
  rw [if_neg h5]
  rw [Bool.not_eq_true] at h5
  exact stepDecodes_of_move hs (congrArg (assembleWith w.frame h) (restOfExtension_done h7 h6 h5))
    (by simp [Stage.stepsLeft, BodyWork.stepsLeft])

/-- Where the record is not formed yet a step decodes; where it is, the record is the result. -/
theorem step_decodes (hf : s.feed = some w) (hF : 6 ≤ w.frame.length) :
    StepDecodes w s (step s) ∨ ∃ rec, w.stage = .assembled rec := by
  cases hs : w.stage with
  | header => exact .inl (stepDecodes_header hf hs (by omega))
  | afLength _ => exact .inl (stepDecodes_afLength hf hs hF)
  | subfields _ _ => exact .inl (stepDecodes_subfields hf hs)
  | extension _ _ _ => exact .inl (stepDecodes_extension hf hs)
  | assembled rec => exact .inr ⟨rec, rfl⟩

/-! ### Runs of at most so many steps -/

/-- At most `k` steps lead from `s` to `t`. -/
def ReachesWithin (k : Nat) (s t : State) : Prop := ∃ n, n ≤ k ∧ run n s = .next t

theorem run_add {m : Nat} (n : Nat) (h : run m s = .next t) : run (m + n) s = run n t := by
  induction m generalizing s with
  | zero =>
    cases h
    rw [Nat.zero_add]
  | succ m ih =>
    rw [Nat.succ_add]
    cases hs : step s with
    | next s' => exact (run_succ_of_step _ hs).trans (ih ((run_succ_of_step m hs).symm.trans h))
    | fault r => simp [run, Host.Core.run, core, hs] at h
    | refused r => simp [run, Host.Core.run, core, hs] at h

namespace ReachesWithin

variable {k l : Nat}

theorem refl (k : Nat) (s : State) : ReachesWithin k s s := ⟨0, Nat.zero_le k, rfl⟩

theorem of_step (h : step s = .next t) : ReachesWithin 1 s t := ⟨1, Nat.le_refl 1, run_succ_of_step 0 h⟩

theorem trans (h : ReachesWithin k s t) (h' : ReachesWithin l t u) : ReachesWithin (k + l) s u := by
  obtain ⟨m, hm, hst⟩ := h
  obtain ⟨n, hn, htu⟩ := h'
  exact ⟨m + n, Nat.add_le_add hm hn, (run_add n hst).trans htu⟩

theorem mono (h : ReachesWithin k s t) (hkl : k ≤ l) : ReachesWithin l s t := by
  obtain ⟨n, hn, hst⟩ := h
  exact ⟨n, Nat.le_trans hn hkl, hst⟩

end ReachesWithin

/-! ### The whole frame -/

/-- The state in which the decode of `w`'s frame has ended with the result `res`: the record is formed, or the error is
taken (R187, R205). -/
def frameDecoded (w : FeedWork) (s : State) : Except Raised TsPacket → State
  | .ok rec => s.setStage w (.assembled rec)
  | .error e => raise w e.kind e.field s

theorem setStage_self (hf : s.feed = some w) : s.setStage w w.stage = s := by
  rw [State.setStage, ← hf]

theorem frameDecoded_setStage (w : FeedWork) (s : State) (st : Stage) (res : Except Raised TsPacket) :
    frameDecoded { w with stage := st } (s.setStage w st) res = frameDecoded w s res := by
  cases res <;> rfl

/-- The decode of a frame ends with the result of its stage, by the steps left. -/
theorem decode_ends (s : State) (w : FeedWork) (hf : s.feed = some w) (hF : 6 ≤ w.frame.length) :
    ReachesWithin w.stage.stepsLeft s (frameDecoded w s (w.stage.result w.frame)) := by
  rcases step_decodes hf hF with (⟨st, hstep, hres, hl⟩ | ⟨e, hres, hstep⟩) | ⟨rec, hrec⟩
  · have hrun := decode_ends (s.setStage w st) { w with stage := st } rfl hF
    rw [frameDecoded_setStage, hres] at hrun
    exact ((ReachesWithin.of_step hstep).trans hrun).mono (by show 1 + st.stepsLeft ≤ _; omega)
  · rw [hres]
    exact (ReachesWithin.of_step hstep).mono (Stage.stepsLeft_pos hres)
  · have hself := setStage_self hf
    rw [hrec] at hself
    rw [hrec, Stage.result, frameDecoded, hself]
    exact .refl _ _
termination_by w.stage.stepsLeft

/-- From a cut frame's header the decode ends within 12 steps as ASSEMBLE does (R180). -/
theorem decode_ends_as_assemble (hf : s.feed = some w) (hs : w.stage = .header) (hF : w.frame.length = 188) :
    ReachesWithin 12 s (frameDecoded w s (assemble w.frame)) := by
  have hrun := decode_ends s w hf (by omega)
  rwa [hs] at hrun

end Sys2Proof.Machine
end

section
/-!
PROOFS. A FEED is R100's pseudocode (R31, R105, R239): frame by frame, its decode and the step that emits its record come
to what `processFrames` says of B and the chunk as one string.
-/
namespace Sys2Proof.Machine

variable {s : State} {w : FeedWork} {rec : TsPacket}

/-! ### What a FEED under way comes to -/

/-- The bytes a FEED has still to process: the frame under decode, then the chunk after it (R100). -/
def FeedWork.rest (w : FeedWork) : List Byte := w.frame ++ w.chunk.drop (cursorAfterFrame w)

/-- The next frame of a FEED (R103). -/
def FeedWork.nextFrame (w : FeedWork) : FeedWork :=
  { w with
    cur := cursorAfterFrame w
    frameIndex := w.frameIndex + 1
    frame := slice w.chunk (cursorAfterFrame w) (cursorAfterFrame w + 188)
    stage := .header }

/-- What the pseudocode comes to from the frame under decode on. -/
def FeedWork.transaction (w : FeedWork) : Transacted :=
  processFrames w.saved (w.bytesLeft / 188 + 1) w.frameIndex w.rest

theorem nextFrame_bytesLeft (w : FeedWork) : w.nextFrame.bytesLeft = w.bytesLeft - 188 := by
  show w.chunk.length - (cursorAfterFrame w + 188) = w.chunk.length - cursorAfterFrame w - 188
  omega

theorem nextFrame_frame_length (hn : 188 ≤ w.bytesLeft) : w.nextFrame.frame.length = 188 := by
  rw [FeedWork.bytesLeft] at hn
  rw [FeedWork.nextFrame, length_slice]
  omega

theorem nextFrame_rest (w : FeedWork) : w.nextFrame.rest = w.chunk.drop (cursorAfterFrame w) := by
  have hcur : cursorAfterFrame w.nextFrame = cursorAfterFrame w + 188 := rfl
  rw [FeedWork.rest, hcur, FeedWork.nextFrame, slice_width, ← List.drop_drop]
  exact List.take_append_drop ..

theorem rest_take (hF : w.frame.length = 188) : w.rest.take 188 = w.frame := by
  rw [FeedWork.rest, List.take_left' hF]

theorem rest_drop (hF : w.frame.length = 188) : w.rest.drop 188 = w.chunk.drop (cursorAfterFrame w) := by
  rw [FeedWork.rest, List.drop_left' hF]

theorem transaction_of_error (hF : w.frame.length = 188) {e : Raised} (he : assemble w.frame = .error e) :
    w.transaction = { records := [], status := .err e.kind w.frameIndex e.field, buffer := w.saved } := by
  rw [← rest_take hF] at he
  exact processFrames_of_error he

theorem transaction_of_last (hF : w.frame.length = 188) (hrec : assemble w.frame = .ok rec) (hn : w.bytesLeft < 188) :
    w.transaction = { records := [rec], status := .ok, buffer := w.chunk.drop (cursorAfterFrame w) } := by
  rw [← rest_take hF] at hrec
  rw [FeedWork.transaction, processFrames_of_ok hrec, Nat.div_eq_of_lt hn, processFrames_zero, rest_drop hF]
  rfl

theorem transaction_of_next (hF : w.frame.length = 188) (hrec : assemble w.frame = .ok rec) (hn : 188 ≤ w.bytesLeft) :
    w.transaction = w.nextFrame.transaction.cons rec := by
  rw [← rest_take hF] at hrec
  have hk : w.nextFrame.bytesLeft / 188 + 1 = w.bytesLeft / 188 := by
    rw [nextFrame_bytesLeft]
    omega
  rw [FeedWork.transaction, processFrames_of_ok hrec, rest_drop hF, FeedWork.transaction, hk, nextFrame_rest]
  rfl

/-! ### The machine comes to it -/

/-- A record emitted first, then the rest of the FEED (R31, R105). -/
theorem Transacted.apply_cons (rec : TsPacket) (t : Transacted) (s : State) :
    (t.cons rec).apply s = t.apply (s.emit (.packet rec)) := by
  simp [Transacted.apply]

/-- The frame under decode is processed: an error ends the FEED, or its record is formed, 12 steps later at most, and
emitted in one more (R105). -/
theorem frame_processed (hf : s.feed = some w) (hs : w.stage = .header) (hF : w.frame.length = 188) :
    (∃ e, assemble w.frame = .error e ∧ ReachesWithin 13 s (raise w e.kind e.field s)) ∨
    ∃ rec, assemble w.frame = .ok rec ∧ ReachesWithin 13 s (finishFrame w rec s) := by
  have hrun := decode_ends_as_assemble hf hs hF
  cases ha : assemble w.frame with
  | error e =>
    rw [ha] at hrun
    exact .inl ⟨e, rfl, hrun.mono (by decide)⟩
  | ok rec =>
    rw [ha] at hrun
    have hstep : step (s.setStage w (.assembled rec)) = .next (finishFrame w rec s) :=
      step_assembled (w := { w with stage := .assembled rec }) rfl rfl
    exact .inr ⟨rec, rfl, hrun.trans (.of_step hstep)⟩

/-- A FEED under way comes to its transaction, 13 steps a frame, by the bytes left (R103, R104, R239). -/
theorem feed_runs (s : State) (w : FeedWork) (hf : s.feed = some w) (hs : w.stage = .header)
    (hF : w.frame.length = 188) :
    ReachesWithin (13 * (w.bytesLeft / 188 + 1)) s (w.transaction.apply { s with feed := none }) := by
  rcases frame_processed hf hs hF with ⟨e, he, hrun⟩ | ⟨rec, hrec, hrun⟩
  · have hend : raise w e.kind e.field s = w.transaction.apply { s with feed := none } := by
      rw [transaction_of_error hF he]
      simp [Transacted.apply, raise, State.emit]
    rw [hend] at hrun
    exact hrun.mono (by omega)
  rcases finishFrame_cases w rec s with ⟨hn, e⟩ | ⟨hn, e⟩
  · have hl : w.nextFrame.bytesLeft < w.bytesLeft := by
      rw [nextFrame_bytesLeft, FeedWork.bytesLeft]
      omega
    have hnext := feed_runs (finishFrame w rec s) w.nextFrame (by rw [e]; rfl) rfl (nextFrame_frame_length hn)
    rw [transaction_of_next hF hrec hn, Transacted.apply_cons]
    rw [e] at hnext hrun
    refine (hrun.trans hnext).mono ?_
    rw [nextFrame_bytesLeft]
    change 188 ≤ w.bytesLeft at hn
    omega
  · have hend : finishFrame w rec s = w.transaction.apply { s with feed := none } := by
      rw [transaction_of_last hF hrec hn, e, slice_to_end]
      simp [Transacted.apply, State.emit]
    rw [hend] at hrun
    exact hrun.mono (by omega)
termination_by w.bytesLeft

/-- The FEED of `chunk` at its first frame (R102). -/
def firstFrame (buffer chunk : List Byte) : FeedWork where
  saved := buffer
  chunk := chunk
  cur := 188 - buffer.length
  frameIndex := 0
  frame := buffer ++ slice chunk 0 (188 - buffer.length)
  stage := .header

section
variable {buffer chunk : List Byte} (hb : buffer.length ≤ 187) (hn : 188 ≤ buffer.length + chunk.length)
include hb hn

theorem firstFrame_frame_length : (firstFrame buffer chunk).frame.length = 188 := by
  rw [firstFrame, List.length_append, length_slice]
  omega

theorem firstFrame_frames : (firstFrame buffer chunk).bytesLeft / 188 + 1 = (buffer.length + chunk.length) / 188 := by
  show (chunk.length - (188 - buffer.length)) / 188 + 1 = _
  omega

theorem firstFrame_transaction : (firstFrame buffer chunk).transaction = feedTransaction buffer chunk := by
  have hrest : (firstFrame buffer chunk).rest = buffer ++ chunk := by
    show buffer ++ slice chunk 0 (188 - buffer.length) ++ chunk.drop (188 - buffer.length) = buffer ++ chunk
    rw [slice, List.drop_zero, Nat.sub_zero, List.append_assoc, List.take_append_drop]
  rw [feedTransaction_eq chunk hb, FeedWork.transaction, hrest, firstFrame_frames hb hn, List.length_append]
  rfl

end

/-- FEED comes to its transaction: at once in the filling case (R101), else from its first frame on (R102). -/
theorem beginFeed_runs (chunk : List Byte) (hf : s.feed = none) (hb : s.buffer.length ≤ 187) :
    ReachesWithin (13 * ((s.buffer.length + chunk.length) / 188)) (beginFeed chunk s)
      ((feedTransaction s.buffer chunk).apply s) := by
  rcases beginFeed_cases chunk s with ⟨hn, e⟩ | ⟨hn, e⟩ <;> rw [e]
  · have hend : { s.emit (.done .ok) with buffer := s.buffer ++ chunk } = (feedTransaction s.buffer chunk).apply s := by
      rw [feedTransaction, if_pos hn]
      simp [Transacted.apply, State.emit]
    rw [hend]
    exact .refl _ _
  · have hrun := feed_runs { s with feed := some (firstFrame s.buffer chunk) } _ rfl rfl (firstFrame_frame_length hb hn)
    rw [firstFrame_frames hb hn, firstFrame_transaction hb hn, ← hf] at hrun
    exact hrun

/-- Settles O39: the step that takes the command, then its frames. -/
theorem feedRunsToItsTransaction : Obligations.FeedRunsToItsTransaction := by
  intro s chunk rest hf hb hp
  have hstep := ReachesWithin.of_step (step_feedCommand hf hp rfl)
  exact hstep.trans (beginFeed_runs (s := { s with pending := rest }) chunk hf hb)

end Sys2Proof.Machine
end

section
/-!
PROOFS. DECODE_HEADER and the checks that come first (R121 to R124, R142, R204): both answers of `decodeHeader`, its
fields as numbers, and the step and the ASSEMBLE that a wrong sync byte or a too long adaptation field ends.
-/
namespace Sys2Proof.Machine

variable {F : List Byte} {s : State} {w : FeedWork}

/-! ### The two answers of DECODE_HEADER (R120) -/

theorem decodeHeader_of_sync (h0 : byteAt F 0 = 0x47#8) :
    decodeHeader F =
      .ok { fields := headerFieldsOf (byteAt F 1) (byteAt F 2) (byteAt F 3)
            adaptationFieldControl := afControlOf (byteAt F 3) } :=
  if_neg fun hne => hne h0

theorem decodeHeader_of_noSync (h0 : byteAt F 0 ≠ 0x47#8) :
    decodeHeader F = .error { kind := .syncError, field := .noField } :=
  if_pos h0

/-- Settles O4: the three flags and the four numbers of `headerFieldsOf`, each by its own lemma. -/
theorem headerFieldsAreTheNumbersOfTheirBits : Obligations.HeaderFieldsAreTheNumbersOfTheirBits := by
  intro F h0
  obtain ⟨hErr, hStart, hPriority⟩ := headerFlags_toNat (byteAt F 1)
  exact ⟨_, decodeHeader_of_sync h0, headerFieldsOf_pid_toNat _ _ _, hErr, hStart, hPriority,
    headerFieldsOf_scrambling_toNat _ _ _, afControlOf_toNat _, headerFieldsOf_continuity_toNat _ _ _⟩

/-! ### ASSEMBLE's first two checks (D23) -/

theorem assemble_of_noSync (h0 : byteAt F 0 ≠ 0x47#8) :
    assemble F = .error { kind := .syncError, field := .noField } := by
  rw [assemble, decodeHeader_of_noSync h0]

/-- The length bound of R142, checked before the flags byte is read. -/
theorem decodeAf_tooLong (hL : 184 ≤ byteVal F 4) : decodeAf F = .error .afLength := by
  have hne : (byteAt F 4).toNat ≠ 0 := Nat.ne_of_gt (Nat.lt_of_lt_of_le (by decide) hL)
  exact (if_neg hne).trans (if_pos hL)

/-- An error of DECODE_AF is ASSEMBLE's, where an adaptation field is selected (R187). -/
theorem assemble_of_decodeAf_error {f : FieldId} (h0 : byteAt F 0 = 0x47#8) (h1 : byteVal F 3 / 32 % 2 = 1)
    (hf : decodeAf F = .error f) : assemble F = .error { kind := .malformedFieldError, field := f } := by
  have hsel : (afControlOf (byteAt F 3))[1] = true := (afControlOf_bits _).1.trans (decide_eq_true h1)
  rw [assemble_of_header (decodeHeader_of_sync h0), if_pos hsel, hf]
  rfl

/-- Settles O34: the header's check answers before any other, and the length bound before the rest of DECODE_AF. -/
theorem syncThenLengthAreCheckedFirst : Obligations.SyncThenLengthAreCheckedFirst := fun _ =>
  ⟨assemble_of_noSync, fun h0 h1 hL => assemble_of_decodeAf_error h0 h1 (decodeAf_tooLong hL)⟩

/-! ### The step that takes a SyncError (R121, R205) -/

theorem step_noSync (hf : s.feed = some w) (hs : w.stage = .header) (hF : 4 ≤ w.frame.length)
    (h0 : byteAt w.frame 0 ≠ 0x47#8) : step s = .next (raise w .syncError .noField s) := by
  rw [step_header hf hs]
  rcases decode_header_word hF with ⟨h, hh, -⟩ | ⟨-, hd⟩
  · exact absurd (byteAt_zero_of_decodeHeader hh) h0
  · rw [hd]
    rfl

/-- Settles O49: the step raises SyncError, and `raise` restores B. -/
theorem syncErrorRestoresTheBuffer : Obligations.SyncErrorRestoresTheBuffer := fun _ _ hf hs hF h0 =>
  step_noSync hf hs (by omega) h0

end Sys2Proof.Machine
end

section
/-!
PROOFS. The extension and the body of the pseudocode (R140, R152 to R162): which options are there and where the cursor
ends, and which bytes are read. Every part reads from its cursor up to where it ends, or up to the region's end where it
raises an error (`ReadsRegion`); the fixed-width parts do, and so do optional parts and parts in sequence.
-/
namespace Sys2Proof.Machine

variable {α β : Type} {F F' : List Byte} {afEnd c c' : Nat}

/-! ### The extension's options (R153, R154, R160) -/

/-- An optional part of fixed width moves the cursor by its width or not at all (R73, R146). -/
theorem cursor_of_decodeOptional_ok {flag : Bool} {w : Nat} {f : FieldId} {value : Nat → α} {o : Option α}
    (h : decodeOptional flag c (fun c => readField F afEnd c w f (value c)) = .ok (o, c')) :
    c' = c + if flag then w else 0 := by
  rcases of_decodeOptional_ok h with ⟨rfl, v, hr, -⟩ | ⟨rfl, -, rfl⟩
  · obtain ⟨-, -, hv⟩ := readField_ok_iff.mp hr
    cases hv
    rfl
  · rfl

/-- Settles O29: each of the three sub-fields after X is an optional part of fixed width. -/
theorem extensionOptionsFollowTheirFlags : Obligations.ExtensionOptionsFollowTheirFlags := by
  intro F afEnd c c' e h
  obtain ⟨c1, c2, -, -, hlength, hltw, hrate, hsplice⟩ := of_decodeExtension_ok h
  refine ⟨hlength, isSome_of_decodeOptional_ok hltw, isSome_of_decodeOptional_ok hrate,
    isSome_of_decodeOptional_ok hsplice, ?_⟩
  rw [cursor_of_decodeOptional_ok hsplice, cursor_of_decodeOptional_ok hrate, cursor_of_decodeOptional_ok hltw]

/-! ### Where a part of the decode reads -/

/-- The end of the bytes that a part may have read: its final cursor, or the region's end if it raised an error. -/
def readEnd (afEnd : Nat) : Except FieldId (α × Nat) → Nat
  | .ok r => r.2
  | .error _ => afEnd

@[simp] theorem readEnd_ok (r : α × Nat) : readEnd afEnd (.ok r) = r.2 := rfl

@[simp] theorem readEnd_error (f : FieldId) : readEnd afEnd (.error f : Except FieldId (α × Nat)) = afEnd := rfl

/-- The part `r` of a decode, as a function of the frame, reads from cursor `c` on in the region that ends at `afEnd`:
its final cursor is `c` or lies in the region behind `c`, and frames that agree on the bytes up to its end give the same
answer (R144, R156). -/
structure ReadsRegion (afEnd c : Nat) (r : List Byte → Except FieldId (α × Nat)) : Prop where
  cursor {F : List Byte} {v : α} {c' : Nat} : r F = .ok (v, c') → c' = c ∨ c ≤ c' ∧ c' ≤ afEnd
  congr {F F' : List Byte} : F'.length = F.length →
    (∀ i, c ≤ i → i < readEnd afEnd (r F) → byteAt F' i = byteAt F i) → r F' = r F

section
variable {r : List Byte → Except FieldId (α × Nat)}

theorem ReadsRegion.le_readEnd (hr : ReadsRegion afEnd c r) (F : List Byte) :
    c ≤ readEnd afEnd (r F) ∨ readEnd afEnd (r F) = afEnd := by
  cases h : r F with
  | ok v =>
    have hv := hr.cursor h
    left
    rw [readEnd_ok]
    omega
  | error f => exact .inr rfl

theorem ReadsRegion.readEnd_le (hr : ReadsRegion afEnd c r) (hc : c ≤ afEnd) (F : List Byte) :
    readEnd afEnd (r F) ≤ afEnd := by
  cases h : r F with
  | ok v =>
    have hv := hr.cursor h
    rw [readEnd_ok]
    omega
  | error f => exact Nat.le_refl _

/-- The end of the decode reads nothing. -/
theorem readsRegion_ok (v : α) : ReadsRegion afEnd c fun _ => .ok (v, c) where
  cursor h := by
    cases h
    exact .inl rfl
  congr _ _ := rfl

/-- A part of fixed width whose value depends on its own bytes only (R144). -/
theorem readsRegion_readField {w : Nat} {f : FieldId} {value : List Byte → α}
    (hv : ∀ {F F'}, F'.length = F.length → (∀ i, c ≤ i → i < c + w → byteAt F' i = byteAt F i) →
      value F' = value F) :
    ReadsRegion afEnd c fun F => readField F afEnd c w f (value F) where
  cursor h := by
    obtain ⟨hend, -, hr⟩ := readField_ok_iff.mp h
    cases hr
    exact .inr ⟨Nat.le_add_right c w, hend⟩
  congr {F F'} hl h := by
    cases hc : claim F afEnd c w f with
    | ok _ => exact readField_congr hl w f (hv hl (by simpa [readField, hc] using h))
    | error e => simp only [readField, claim_congr hl, hc]

/-- A part of one byte. -/
theorem readsRegion_readByte {f : FieldId} (value : Byte → α) :
    ReadsRegion afEnd c fun F => readField F afEnd c 1 f (value (byteAt F c)) :=
  readsRegion_readField fun _ h => congrArg value (h c (Nat.le_refl c) (Nat.lt_succ_self c))

/-- One part after another: the first one's end is before the second one's, or in the region. -/
theorem readsRegion_andThen {k : α → Nat → List Byte → Except FieldId (β × Nat)} (hr : ReadsRegion afEnd c r)
    (hk : ∀ v c1, ReadsRegion afEnd c1 (k v c1)) :
    ReadsRegion afEnd c fun F => andThen (r F) fun v c1 => k v c1 F where
  cursor h := by
    obtain ⟨v, c1, h1, h2⟩ := of_andThen_ok h
    have hc1 := hr.cursor h1
    have hc2 := (hk v c1).cursor h2
    omega
  congr {F F'} hl h := by
    cases h1 : r F with
    | error f =>
      rw [hr.congr hl (by simpa [h1] using h), h1]
      rfl
    | ok a =>
      obtain ⟨v, c1⟩ := a
      have hc1 := hr.cursor h1
      have hend := (hk v c1).le_readEnd F
      simp only [h1, andThen_ok] at h
      have first : r F' = .ok (v, c1) := by
        rw [← h1]
        refine hr.congr hl fun i hi hlt => h i hi ?_
        rw [h1, readEnd_ok] at hlt
        omega
      have second : k v c1 F' = k v c1 F := (hk v c1).congr hl fun i hi hlt => h i (by omega) hlt
      rw [first, andThen_ok, andThen_ok, second]

/-- A skipped part reads nothing (R146). -/
theorem readsRegion_decodeOptional (flag : Bool) {rd : List Byte → Nat → Except FieldId (α × Nat)}
    (hr : ReadsRegion afEnd c fun F => rd F c) : ReadsRegion afEnd c fun F => decodeOptional flag c (rd F) where
  cursor h := by
    rcases of_decodeOptional_ok h with ⟨-, v, hv, -⟩ | ⟨-, -, hc⟩
    · exact hr.cursor hv
    · exact .inl hc
  congr {F F'} hl h := by
    cases flag with
    | false => rfl
    | true =>
      refine decodeOptional_congr (hr.congr hl fun i hi hlt => h i hi ?_)
      cases hv : rd F c <;> simpa [decodeOptional, hv] using hlt

end

/-! ### The parts in two pieces -/

theorem readPrivateData_eq_andThen (F : List Byte) (afEnd c : Nat) :
    readPrivateData F afEnd c =
      andThen (readField F afEnd c 1 .privateDataLength (byteAt F c)) fun p c =>
        readField F afEnd c p.toNat .privateData (slice F c (c + p.toNat)) := by
  simp only [readPrivateData, readField]
  cases claim F afEnd c 1 .privateDataLength <;> rfl

theorem readExtensionHeader_eq_andThen (F : List Byte) (afEnd c : Nat) :
    readExtensionHeader F afEnd c =
      andThen (readField F afEnd c 1 .extensionLength (byteAt F c)) fun e c =>
        readField F afEnd c 1 .extensionFlags (e, byteAt F c) := by
  simp only [readExtensionHeader, readField]
  cases claim F afEnd c 1 .extensionLength <;> rfl

theorem readsRegion_readPrivateData : ReadsRegion afEnd c fun F => readPrivateData F afEnd c := by
  simp only [readPrivateData_eq_andThen]
  exact readsRegion_andThen (readsRegion_readByte id) fun _ _ => readsRegion_readField slice_congr

theorem readsRegion_readExtensionHeader : ReadsRegion afEnd c fun F => readExtensionHeader F afEnd c := by
  simp only [readExtensionHeader_eq_andThen]
  exact readsRegion_andThen (readsRegion_readByte id) fun e _ => readsRegion_readByte (Prod.mk e)

/-! ### The extension and the body -/

theorem readsRegion_decodeExtension : ReadsRegion afEnd c fun F => decodeExtension F afEnd c := by
  unfold decodeExtension
  refine readsRegion_andThen readsRegion_readExtensionHeader fun ex _ => ?_
  refine readsRegion_andThen
    (readsRegion_decodeOptional ex.2[7] (readsRegion_readField fun _ => ltwValue_congr)) fun _ _ => ?_
  refine readsRegion_andThen
    (readsRegion_decodeOptional ex.2[6] (readsRegion_readField fun _ => piecewiseRateValue_congr)) fun _ _ => ?_
  refine readsRegion_andThen
    (readsRegion_decodeOptional ex.2[5] (readsRegion_readField fun _ => seamlessSpliceValue_congr)) fun _ _ => ?_
  exact readsRegion_ok _

theorem readsRegion_decodeBody (a : Byte) : ReadsRegion afEnd 6 fun F => decodeBody F afEnd a := by
  unfold decodeBody
  refine readsRegion_andThen (readsRegion_decodeOptional a[4] (readsRegion_readField clockRef_congr)) fun _ _ => ?_
  refine readsRegion_andThen (readsRegion_decodeOptional a[3] (readsRegion_readField clockRef_congr)) fun _ _ => ?_
  refine readsRegion_andThen (readsRegion_decodeOptional a[2] (readsRegion_readByte sext8)) fun _ _ => ?_
  refine readsRegion_andThen (readsRegion_decodeOptional a[1] readsRegion_readPrivateData) fun _ _ => ?_
  refine readsRegion_andThen (readsRegion_decodeOptional a[0] readsRegion_decodeExtension) fun _ _ => ?_
  exact readsRegion_ok _

/-- Settles O30: the final cursor is 6 or lies in the region behind it. -/
theorem decodedBodyStaysInItsRegion : Obligations.DecodedBodyStaysInItsRegion := by
  intro F afEnd a body c hend h
  have hc := (readsRegion_decodeBody a).cursor h
  omega

/-- Settles O31: a body that decodes reads up to its final cursor. -/
theorem unreadTailChangesNothing : Obligations.UnreadTailChangesNothing := by
  intro F F' afEnd a body c hl hagree h
  refine ((readsRegion_decodeBody a).congr hl fun i _ hi => hagree i ?_).trans h
  rwa [h] at hi

/-- Settles O32: the length byte, the flags byte behind it, and the body, which reads up to the region's end at most. -/
theorem afDecodeReadsOnlyItsRegion : Obligations.AfDecodeReadsOnlyItsRegion := by
  intro F F' hF hF' hagree
  have hlength : byteAt F' 4 = byteAt F 4 := hagree 4 (Nat.le_refl 4) (by omega)
  simp only [decodeAf, hlength]
  by_cases h0 : (byteAt F 4).toNat = 0
  · rw [if_pos h0, if_pos h0]
  have hpos : 6 ≤ 5 + (byteAt F 4).toNat := by omega
  have hflags : byteAt F' 5 = byteAt F 5 := hagree 5 (by decide) hpos
  have hbody : decodeBody F' (5 + (byteAt F 4).toNat) (byteAt F 5) =
      decodeBody F (5 + (byteAt F 4).toNat) (byteAt F 5) :=
    (readsRegion_decodeBody _).congr (hF'.trans hF.symm) fun i hi hlt =>
      hagree i (by omega) (Nat.lt_of_lt_of_le hlt ((readsRegion_decodeBody _).readEnd_le hpos F))
  rw [hflags, hbody]

end Sys2Proof.Machine
end

section
/-!
PROOFS. The decode structures of the adaptation field, one at a time (R141 to R161): where a part fits its value is
stored and the cursor moves, where it does not its field is raised, and where no flag is left the record is formed.
-/
namespace Sys2Proof.Machine

variable {F : List Byte} {afEnd c : Nat} {s : State} {w : FeedWork} {h : Header} {b : BodyWork} {x : ExtWork}

/-! ### The length byte (R141 to R145) -/

/-- Settles O19. -/
theorem afEmptyFormsTheRecordWithoutBody : Obligations.AfEmptyFormsTheRecordWithoutBody := by
  refine ⟨rfl, fun s w h hf hs => ?_⟩
  rw [exec, execAfEmpty, onAfLength_at hf hs]
  rfl

theorem readBodyStart_fits {length : Byte} (hL : length.toNat ≤ 183) (hF : 6 ≤ F.length) :
    readBodyStart F length =
      .ok { length := length, afEnd := 5 + length.toNat, cursor := 6, flags := byteAt F 5, todo := byteAt F 5,
            pcr := none, opcr := none, spliceCountdown := none, privateData := none, extension := none } := by
  rw [readBodyStart, if_neg (Nat.not_lt.mpr hL), backstop, if_pos hF]

theorem readBodyStart_tooLong {length : Byte} (hL : 184 ≤ length.toNat) :
    readBodyStart F length = .error .afLength :=
  if_pos hL

/-- Settles O20: the two answers of `readBodyStart`. -/
theorem afBodySetsTheRegionOrRaises : Obligations.AfBodySetsTheRegionOrRaises := by
  intro s w h length hf hs
  rw [exec, execAfBody, onAfLength_at hf hs]
  constructor
  · intro hL hF
    rw [readBodyStart_fits hL hF]
    rfl
  · intro hL
    rw [readBodyStart_tooLong hL]
    rfl

/-! ### Parts that fit -/

theorem readSpliceCountdown_fits (hfit : c + 1 ≤ afEnd) (hF : afEnd ≤ F.length) :
    readSpliceCountdown F afEnd c = .ok ((byteAt F c).toInt, c + 1) := by
  rw [← sext8_eq_toInt]
  exact readField_fits hfit hF

theorem readExtensionHeader_fits (hfit : c + 2 ≤ afEnd) (hF : afEnd ≤ F.length) :
    readExtensionHeader F afEnd c = .ok ((byteAt F c, byteAt F (c + 1)), c + 2) :=
  readExtensionHeader_ok_iff.mpr ⟨hfit, Nat.le_trans hfit hF, rfl⟩

theorem readSeamlessSplice_fits (hfit : c + 5 ≤ afEnd) (hF : afEnd ≤ F.length) :
    readSeamlessSplice F afEnd c = .ok (seamlessSpliceValue F c, c + 5) :=
  readField_fits hfit hF

/-- The largest sum, of bytes that are all FF: its carry is kept (R71, 90_conflicts.md C7). -/
theorem seamlessSpliceValue_dts_le (F : List Byte) (c : Nat) :
    (seamlessSpliceValue F c).dtsNextAu.toNat ≤ 4831838207 := by
  have := (byteAt F (c + 1)).isLt
  have := (byteAt F (c + 2)).isLt
  have := (byteAt F (c + 3)).isLt
  have := (byteAt F (c + 4)).isLt
  rw [seamlessSpliceValue_dts]
  omega

/-- Settles O22. -/
theorem spliceCountdownIsSigned : Obligations.SpliceCountdownIsSigned := by
  intro s w h b hf hs hfit hF
  rw [exec, execAfSpliceCountdown, onSubfields_at hf hs, readSpliceCountdown_fits hfit hF]
  rfl

/-- Settles O24. -/
theorem extensionReadsItsLengthAndFlags : Obligations.ExtensionReadsItsLengthAndFlags := by
  intro s w h b hf hs hfit hF
  rw [exec, execAfExtension, onSubfields_at hf hs, readExtensionHeader_fits hfit hF]
  rfl

/-- Settles O27: the value's two numbers, the bound of its sum, and the structure's effect. -/
theorem seamlessSpliceDecodesTheSourceFormula : Obligations.SeamlessSpliceDecodesTheSourceFormula := by
  intro s w h b x hf hs hfit hF
  refine ⟨seamlessSpliceValue w.frame b.cursor, seamlessSpliceValue_type _ _, seamlessSpliceValue_dts _ _,
    seamlessSpliceValue_dts_le _ _, ?_⟩
  rw [exec, execExtSeamlessSplice, onExtension_at hf hs, readSeamlessSplice_fits hfit hF]
  rfl

/-! ### Parts past the region (R144, R202, R205) -/

section
variable {β : Type} {f : FieldId}

theorem advance_map_error {r : Except FieldId β} {g : β → Stage} (hr : r = .error f) :
    advance w (r.map g) s = .next (raise w .malformedFieldError f s) := by
  rw [hr]
  rfl

/-- A sub-field whose reader raises. -/
theorem onSubfields_raises {r : FeedWork → BodyWork → Except FieldId β} {g : Header → BodyWork → β → Stage}
    (hf : s.feed = some w) (hs : w.stage = .subfields h b) (hr : r w b = .error f) :
    onSubfields s (fun w h b => advance w ((r w b).map (g h b)) s) = .next (raise w .malformedFieldError f s) := by
  rw [onSubfields_at hf hs]
  exact advance_map_error hr

/-- An extension sub-field whose reader raises. -/
theorem onExtension_raises {r : FeedWork → BodyWork → Except FieldId β}
    {g : Header → BodyWork → ExtWork → β → Stage}
    (hf : s.feed = some w) (hs : w.stage = .extension h b x) (hr : r w b = .error f) :
    onExtension s (fun w h b x => advance w ((r w b).map (g h b x)) s) = .next (raise w .malformedFieldError f s) := by
  rw [onExtension_at hf hs]
  exact advance_map_error hr

end

theorem readPrivateData_noLength (hpast : afEnd < c + 1) :
    readPrivateData F afEnd c = .error .privateDataLength := by
  rw [readPrivateData_eq_andThen, readField_past_region hpast, andThen_error]

theorem readPrivateData_noData (hfit : c + 1 ≤ afEnd) (hF : afEnd ≤ F.length)
    (hpast : afEnd < c + 1 + byteVal F c) : readPrivateData F afEnd c = .error .privateData := by
  rw [readPrivateData_eq_andThen, readField_fits hfit hF, andThen_ok]
  exact readField_past_region hpast

theorem readExtensionHeader_noLength (hpast : afEnd < c + 1) :
    readExtensionHeader F afEnd c = .error .extensionLength := by
  rw [readExtensionHeader_eq_andThen, readField_past_region hpast, andThen_error]

theorem readExtensionHeader_noFlags (hend : afEnd = c + 1) (hF : afEnd ≤ F.length) :
    readExtensionHeader F afEnd c = .error .extensionFlags := by
  rw [readExtensionHeader_eq_andThen, readField_fits (Nat.le_of_eq hend.symm) hF, andThen_ok,
    readField_past_region (by omega)]

/-- Settles O28: each structure raises what its reader raises, and `raise` has the effect of R205. -/
theorem partsPastTheRegionRaiseTheirField : Obligations.PartsPastTheRegionRaiseTheirField := by
  intro s w h b x raised hf hF hraised
  obtain rfl : raised = fun f => raise w .malformedFieldError f s := funext hraised
  refine ⟨fun hs => ⟨?_, ?_, ?_, ?_, ?_, ?_, ?_⟩, fun hs => ⟨?_, ?_, ?_⟩⟩
  · exact fun hpast => onSubfields_raises hf hs (readField_past_region hpast)
  · exact fun hpast => onSubfields_raises hf hs (readField_past_region hpast)
  · exact fun hpast => onSubfields_raises hf hs (readField_past_region hpast)
  · exact fun hpast => onSubfields_raises hf hs (readPrivateData_noLength hpast)
  · exact fun hfit hpast => onSubfields_raises hf hs (readPrivateData_noData hfit hF hpast)
  · exact fun hpast => onSubfields_raises hf hs (readExtensionHeader_noLength hpast)
  · exact fun hend => onSubfields_raises hf hs (readExtensionHeader_noFlags hend hF)
  · exact fun hpast => onExtension_raises hf hs (readField_past_region hpast)
  · exact fun hpast => onExtension_raises hf hs (readField_past_region hpast)
  · exact fun hpast => onExtension_raises hf hs (readField_past_region hpast)

/-! ### No flag left (R160, R161) -/

theorem getElem_of_and_eq_zero {t m : Byte} {k : Nat} {hk : k < 8} (ht : t &&& m = 0#8) (hm : m.getLsbD k = true) :
    t[k] = false :=
  (getElem_of_and_eq (y := 0#8) (ht.trans BitVec.zero_and.symm) hm).trans (BitVec.getElem_zero hk)

theorem step_extension_done (hf : s.feed = some w) (hs : w.stage = .extension h b x) (ht : x.todo &&& 0xE0#8 = 0#8) :
    step s = .next (closeExtension w h b x s) := by
  have h7 : x.todo[7] = false := getElem_of_and_eq_zero ht (by decide)
  have h6 : x.todo[6] = false := getElem_of_and_eq_zero ht (by decide)
  have h5 : x.todo[5] = false := getElem_of_and_eq_zero ht (by decide)
  rw [step_extension hf hs, h7, h6, h5]
  rfl

theorem step_subfields_done (hf : s.feed = some w) (hs : w.stage = .subfields h b) (ht : b.todo &&& 0x1F#8 = 0#8) :
    step s = .next (closeBody w h b s) := by
  have h4 : b.todo[4] = false := getElem_of_and_eq_zero ht (by decide)
  have h3 : b.todo[3] = false := getElem_of_and_eq_zero ht (by decide)
  have h2 : b.todo[2] = false := getElem_of_and_eq_zero ht (by decide)
  have h1 : b.todo[1] = false := getElem_of_and_eq_zero ht (by decide)
  have h0 : b.todo[0] = false := getElem_of_and_eq_zero ht (by decide)
  rw [step_subfields hf hs, h4, h3, h2, h1, h0]
  rfl

/-- Settles O52: `closeExtension` and `closeBody`, written out. -/
theorem consideredFlagsCloseTheirRecord : Obligations.ConsideredFlagsCloseTheirRecord := fun _ _ _ _ hf =>
  ⟨fun _ => step_extension_done hf, step_subfields_done hf⟩

end Sys2Proof.Machine
end

section
/-!
PROOFS. ASSEMBLE and the packet kinds (R180 to R188): what a frame gives by its header, with and without an adaptation
field, and the machine's step for each kind.
-/
namespace Sys2Proof.Machine

variable {F : List Byte} {h : Header} {af : AdaptationField} {f : FieldId}

/-! ### The frame's decode by steps (R180) -/

/-- Settles O38: the decode of the machine ends with the result of ASSEMBLE. -/
theorem frameDecodeIsAssemble : Obligations.FrameDecodeIsAssemble := by
  intro s w hf hs hF
  have hrun : ReachesWithin 12 s (frameDecoded w s (assemble w.frame)) := decode_ends_as_assemble hf hs hF
  constructor
  · intro r hr
    rwa [hr] at hrun
  · intro e he
    rwa [he] at hrun

/-! ### The payload view (R181) -/

theorem payloadView_absent {afc : BitVec 2} {off : Nat} (hc : afc[0] = false) : payloadView afc off = none := by
  rw [payloadView, hc]
  rfl

theorem payloadView_present {afc : BitVec 2} {off : Nat} (hc : afc[0] = true) :
    payloadView afc off = some { offset := off, length := 188 - off } := by
  rw [payloadView, hc]
  rfl

/-! ### The step of each packet kind (R183 to R186) -/

/-- Settles O17: the record of a header without an adaptation field, its payload view by the control's bit 0. -/
theorem pktNoneAndPktPayloadFormTheRecord : Obligations.PktNoneAndPktPayloadFormTheRecord := by
  intro s w h hf hs
  constructor
  · rw [exec, execPktNone, onHeader_at hf hs, assembleRecord, payloadView_absent (afc := 0b00#2) (by decide)]
    rfl
  · rw [exec, execPktPayload, onHeader_at hf hs, assembleRecord, payloadView_present (afc := 0b01#2) (by decide)]
    rfl

/-- Settles O18: a packet kind that runs at the header only sets the stage. -/
theorem pktAfAndPktAfPayloadGoOnToTheLengthByte : Obligations.PktAfAndPktAfPayloadGoOnToTheLengthByte :=
  fun _ _ _ hf hs => ⟨onHeader_at hf hs, onHeader_at hf hs⟩

/-! ### The three ways ASSEMBLE ends after a header (R180, R187) -/

theorem assemble_withoutAf (hh : decodeHeader F = .ok h) (hc : h.adaptationFieldControl[1] = false) :
    assemble F = .ok (assembleRecord F h none) := by
  rw [assemble_of_header hh, hc]
  rfl

theorem assemble_withAf (hh : decodeHeader F = .ok h) (hc : h.adaptationFieldControl[1] = true)
    (ha : decodeAf F = .ok af) : assemble F = .ok (assembleRecord F h (some af)) := by
  rw [assemble_of_header hh, hc, ha]
  rfl

theorem assemble_afError (hh : decodeHeader F = .ok h) (hc : h.adaptationFieldControl[1] = true)
    (ha : decodeAf F = .error f) : assemble F = .error { kind := .malformedFieldError, field := f } := by
  rw [assemble_of_header hh, hc, ha]
  rfl

/-! ### Without an adaptation field (R182) -/

theorem byteAt_set_of_ne {i j : Nat} (hij : i ≠ j) (v : Byte) : byteAt (F.set i v) j = byteAt F j := by
  rw [byteAt, byteAt, List.getD_eq_getElem?_getD, List.getD_eq_getElem?_getD, List.getElem?_set_ne hij]

/-- DECODE_HEADER reads only the four header bytes (R120). -/
theorem decodeHeader_set {i : Nat} (hi : 4 ≤ i) (v : Byte) : decodeHeader (F.set i v) = decodeHeader F := by
  have header_byte (j : Nat) (hj : j < 4) : byteAt (F.set i v) j = byteAt F j := byteAt_set_of_ne (by omega) v
  simp only [decodeHeader, header_byte 0 (by decide), header_byte 1 (by decide), header_byte 2 (by decide),
    header_byte 3 (by decide)]

/-- Settles O35: the record is formed from the header alone, and the header does not read F[4]. -/
theorem withoutAdaptationFieldByteFourIsIgnored : Obligations.WithoutAdaptationFieldByteFourIsIgnored := by
  intro F v _ h0 h1
  obtain ⟨hbit1, hbit0⟩ := afControlOf_bits (byteAt F 3)
  have hc : (afControlOf (byteAt F 3))[1] = false := hbit1.trans (decide_eq_false (by rw [byteVal] at h1; omega))
  have hh := decodeHeader_of_sync h0
  have hset := (decodeHeader_set (Nat.le_refl 4) v).trans hh
  refine ⟨_, assemble_withoutAf hh hc, rfl, ?_, assemble_withoutAf hset hc⟩
  by_cases hp : byteVal F 3 / 16 % 2 = 1
  · rw [if_pos hp]
    exact payloadView_present (hbit0.trans (decide_eq_true hp))
  · rw [if_neg hp]
    exact payloadView_absent (hbit0.trans (decide_eq_false hp))

/-! ### The record of each packet kind (R183 to R188) -/

/-- A record ASSEMBLE returns is formed from the header that decodes (R180, R188). -/
theorem exists_assembleRecord_of_assemble_ok {r : TsPacket} (hh : decodeHeader F = .ok h) (hr : assemble F = .ok r) :
    ∃ af, r = assembleRecord F h af := by
  obtain ⟨hd, af, hh', -, -, hrec⟩ := of_assemble_ok hr
  obtain rfl : hd = h := Except.ok.inj (hh'.symm.trans hh)
  exact ⟨af, hrec⟩

/-- Settles O36: one clause for each way ASSEMBLE ends, at each value of adaptation_field_control. -/
theorem packetKindsGiveTheirRecords : Obligations.PacketKindsGiveTheirRecords := by
  intro F h hh
  refine ⟨?none, ?payload, fun af ha => ⟨?af, ?afPayload⟩, fun f ha hc => assemble_afError hh hc ha, ?fields⟩
  case none =>
    intro hc
    exact ⟨_, assemble_withoutAf hh (by simp [hc]), rfl, payloadView_absent (by simp [hc])⟩
  case payload =>
    intro hc
    exact ⟨_, assemble_withoutAf hh (by simp [hc]), rfl, payloadView_present (by simp [hc])⟩
  case af =>
    intro hc
    exact ⟨_, assemble_withAf hh (by simp [hc]) ha, rfl, payloadView_absent (by simp [hc])⟩
  case afPayload =>
    intro hc
    refine ⟨_, assemble_withAf hh (by simp [hc]) ha, rfl, ?_⟩
    rw [assembleRecord, payloadView_present (by simp [hc]), payloadOffset, Nat.sub_add_eq]
  case fields =>
    intro r hr
    obtain ⟨af, rfl⟩ := exists_assembleRecord_of_assemble_ok hh hr
    exact ⟨rfl, rfl, rfl, rfl, rfl, rfl, rfl, rfl⟩

end Sys2Proof.Machine
end

section
/-!
PROOFS. Which errors are reported (R201 to R203, R213, R51). A part's check answers the part's own field id wherever the
region lies in the frame, so the backstop is never reached; hence every error the pseudocode comes to from a stage is one
the block reports, and an error that a step outputs is that one (`step_decodes`). An idle block outputs nothing.
-/
namespace Sys2Proof.Machine

/-! ### The backstop is not reached (R51, R144) -/

section
variable {α β : Type} {F : List Byte} {afEnd c : Nat} {f : FieldId}

theorem andThen_ne_error {r : Except FieldId (α × Nat)} {k : α → Nat → Except FieldId β} (hr : r ≠ .error f)
    (hk : ∀ v c, k v c ≠ .error f) : andThen r k ≠ .error f := by
  cases r with
  | ok v => exact hk v.1 v.2
  | error e => exact fun h => hr (congrArg Except.error (Except.error.inj h))

theorem decodeOptional_ne_error {flag : Bool} {rd : Nat → Except FieldId (α × Nat)} (hr : rd c ≠ .error f) :
    decodeOptional flag c rd ≠ .error f := by
  cases flag with
  | false => exact nofun
  | true =>
    rw [decodeOptional, if_pos rfl]
    cases h : rd c with
    | ok v => exact nofun
    | error e => exact fun he => hr (h.trans (congrArg Except.error (Except.error.inj he)))

variable (hF : afEnd ≤ F.length)
include hF

theorem readField_ne_frameBounds {w : Nat} {value : α} (hf : f ≠ .frameBounds) :
    readField F afEnd c w f value ≠ .error .frameBounds :=
  fun h => hf (readField_error h hF).symm

theorem readPrivateData_ne_frameBounds : readPrivateData F afEnd c ≠ .error .frameBounds := by
  rw [readPrivateData_eq_andThen]
  exact andThen_ne_error (readField_ne_frameBounds hF nofun) fun _ _ => readField_ne_frameBounds hF nofun

theorem readExtensionHeader_ne_frameBounds : readExtensionHeader F afEnd c ≠ .error .frameBounds := by
  rw [readExtensionHeader_eq_andThen]
  exact andThen_ne_error (readField_ne_frameBounds hF nofun) fun _ _ => readField_ne_frameBounds hF nofun

/-- An optional part of fixed width (R146). -/
theorem decodeOptional_readField_ne_frameBounds {flag : Bool} {w : Nat} {value : Nat → α} (hf : f ≠ .frameBounds) :
    decodeOptional flag c (fun c => readField F afEnd c w f (value c)) ≠ .error .frameBounds :=
  decodeOptional_ne_error (readField_ne_frameBounds hF hf)

theorem decodeExtension_ne_frameBounds : decodeExtension F afEnd c ≠ .error .frameBounds :=
  andThen_ne_error (readExtensionHeader_ne_frameBounds hF) fun _ _ =>
  andThen_ne_error (decodeOptional_readField_ne_frameBounds hF nofun) fun _ _ =>
  andThen_ne_error (decodeOptional_readField_ne_frameBounds hF nofun) fun _ _ =>
  andThen_ne_error (decodeOptional_readField_ne_frameBounds hF nofun) fun _ _ => nofun

end

variable {F : List Byte} {h : Header} {b : BodyWork} {x : ExtWork} {e : Raised}

theorem restOfBody_ne_frameBounds (hF : b.afEnd ≤ F.length) : restOfBody F b ≠ .error .frameBounds :=
  andThen_ne_error (decodeOptional_readField_ne_frameBounds hF nofun) fun _ _ =>
  andThen_ne_error (decodeOptional_readField_ne_frameBounds hF nofun) fun _ _ =>
  andThen_ne_error (decodeOptional_readField_ne_frameBounds hF nofun) fun _ _ =>
  andThen_ne_error (decodeOptional_ne_error (readPrivateData_ne_frameBounds hF)) fun _ _ =>
  andThen_ne_error (decodeOptional_ne_error (decodeExtension_ne_frameBounds hF)) fun _ _ => nofun

theorem restOfExtension_ne_frameBounds (hF : b.afEnd ≤ F.length) : restOfExtension F b x ≠ .error .frameBounds :=
  andThen_ne_error (decodeOptional_readField_ne_frameBounds hF nofun) fun _ _ =>
  andThen_ne_error (decodeOptional_readField_ne_frameBounds hF nofun) fun _ _ =>
  andThen_ne_error (decodeOptional_readField_ne_frameBounds hF nofun) fun _ _ => restOfBody_ne_frameBounds hF

/-- The length bound keeps the region in the frame (R142, R143). -/
theorem decodeAf_ne_frameBounds (hF : F.length = 188) : decodeAf F ≠ .error .frameBounds := by
  by_cases h0 : byteAt F 4 = 0#8
  · rw [decodeAf_empty h0]
    exact nofun
  by_cases hL : (byteAt F 4).toNat ≤ 183
  · rw [decodeAf_body h0 (by omega), readBodyStart_fits hL (by omega)]
    exact restOfBody_ne_frameBounds (show 5 + (byteAt F 4).toNat ≤ F.length by omega)
  · rw [decodeAf_tooLong (by rw [byteVal]; omega)]
    exact nofun

/-! ### The errors the pseudocode comes to (R187, R203) -/

/-- An error the block reports: AllocationError (R203) and FRAME_BOUNDS (R51) are none. -/
structure Raised.Reportable (e : Raised) : Prop where
  kind : e.kind ≠ .allocationError
  field : e.field ≠ .frameBounds

theorem reportable_of_assembleWith_error {r : Except FieldId AdaptationField} (hr : r ≠ .error .frameBounds)
    (he : assembleWith F h r = .error e) : e.Reportable := by
  cases r with
  | ok af => cases he
  | error f =>
    cases he
    exact ⟨nofun, fun hf => hr (congrArg Except.error hf)⟩

theorem reportable_of_assemble_error (hF : F.length = 188) (he : assemble F = .error e) : e.Reportable := by
  by_cases h0 : byteAt F 0 = 0x47#8
  · rw [assemble_of_header (decodeHeader_of_sync h0)] at he
    split at he
    · exact reportable_of_assembleWith_error (decodeAf_ne_frameBounds hF) he
    · cases he
  · cases (assemble_of_noSync h0).symm.trans he
    exact ⟨nofun, nofun⟩

theorem BodyWork.Inv.afEnd_le (hb : b.Inv F) (hF : F.length = 188) : b.afEnd ≤ F.length := by
  have := hb.region
  have := hb.lengthMax
  omega

theorem Stage.Inv.reportable_of_result_error {st : Stage} (hst : st.Inv F) (hF : F.length = 188)
    (he : st.result F = .error e) : e.Reportable := by
  cases st with
  | header => exact reportable_of_assemble_error hF he
  | afLength _ => exact reportable_of_assembleWith_error (decodeAf_ne_frameBounds hF) he
  | subfields _ _ =>
    obtain ⟨-, -, hb, -⟩ := hst
    exact reportable_of_assembleWith_error (restOfBody_ne_frameBounds (hb.afEnd_le hF)) he
  | extension _ _ _ =>
    obtain ⟨-, -, hb, -, -⟩ := hst
    exact reportable_of_assembleWith_error (restOfExtension_ne_frameBounds (hb.afEnd_le hF)) he
  | assembled _ => cases he

/-! ### The errors a step outputs (R105, R205) -/

variable {s t : State} {w : FeedWork} {k : ErrorKind} {j : Nat} {f : FieldId}

theorem error_mem_finishFrame {rec : TsPacket} :
    Event.done (.err k j f) ∈ (finishFrame w rec s).output ↔ Event.done (.err k j f) ∈ s.output := by
  rcases finishFrame_cases w rec s with ⟨-, e⟩ | ⟨-, e⟩ <;> simp [e]

theorem error_mem_beginFeed {chunk : List Byte} :
    Event.done (.err k j f) ∈ (beginFeed chunk s).output ↔ Event.done (.err k j f) ∈ s.output := by
  rcases beginFeed_cases chunk s with ⟨-, e⟩ | ⟨-, e⟩ <;> simp [e]

/-- Between commands no error is output: an idle step, RESET and a FEED's first step raise none. -/
theorem feed_of_error_added (h : step s = .next t) (hin : Event.done (.err k j f) ∈ t.output)
    (hnew : Event.done (.err k j f) ∉ s.output) : ∃ w, s.feed = some w := by
  rcases step_next_cases h with ⟨-, -, rfl⟩ | ⟨cmd, rest, -, -, ⟨-, rfl⟩ | ⟨-, rfl⟩⟩ | ⟨w, hf, -⟩
  · exact absurd hin hnew
  · exact absurd (by simpa using hin) hnew
  · exact absurd (error_mem_beginFeed.mp hin) hnew
  · exact ⟨w, hf⟩

/-- An error that a step of a FEED outputs is the one its frame comes to, with the frame's index (R202). -/
theorem result_of_error_added (hf : s.feed = some w) (hF : 6 ≤ w.frame.length) (h : step s = .next t)
    (hin : Event.done (.err k j f) ∈ t.output) (hnew : Event.done (.err k j f) ∉ s.output) :
    w.stage.result w.frame = .error ⟨k, f⟩ ∧ j = w.frameIndex := by
  rcases step_decodes hf hF with (⟨st, hstep, -⟩ | ⟨e, hres, hstep⟩) | ⟨rec, hrec⟩
  · cases h.symm.trans hstep
    exact absurd hin hnew
  · cases h.symm.trans hstep
    obtain ⟨rfl, rfl, rfl⟩ : k = e.kind ∧ j = w.frameIndex ∧ f = e.field := by simpa [hnew] using hin
    exact ⟨hres, rfl⟩
  · cases h.symm.trans (step_assembled hf hrec)
    exact absurd (error_mem_finishFrame.mp hin) hnew

/-- Settles O50: an error that is output is one the frame's decode comes to, and those are reportable. -/
theorem allocationAndFrameBoundsNeverReported : Obligations.AllocationAndFrameBoundsNeverReported := by
  intro s t j kind field hs h hin hnew
  obtain ⟨w, hf⟩ := feed_of_error_added h hin hnew
  obtain ⟨-, hF, -, -⟩ := hs.memory.2 w hf
  obtain ⟨hres, -⟩ := result_of_error_added hf (by omega) h hin hnew
  obtain ⟨hkind, hfield⟩ := (hs.stage w hf).reportable_of_result_error hF hres
  exact ⟨hkind, hfield⟩

/-! ### The idle block, and the numbers (R201, R202, R213) -/

/-- Settles O7. -/
theorem idleBlockDoesNothing : Obligations.IdleBlockDoesNothing :=
  fun _ => step_idle

/-- Settles O51: the tables of `Status.code` and `FieldId.id`, read off. -/
theorem errorCodesAndFieldIds : Obligations.ErrorCodesAndFieldIds :=
  ⟨rfl, fun _ _ => ⟨rfl, rfl, rfl⟩, rfl⟩

end Sys2Proof.Machine
end

section
/-!
PROOFS. Power-on, and where an instruction stops (R230, R233): each of the five places where an instruction may run
(`onIdle`, `onHeader`, `onAfLength`, `onSubfields`, `onExtension`) refuses or faults when the block stands elsewhere.
-/
namespace Sys2Proof.Machine

variable {s : State} {w : FeedWork}

/-! ### Stopping where the block stands elsewhere -/

theorem onIdle_busy {k : State → State} (hf : s.feed = some w) : onIdle s k = .refused .overlappingCommand := by
  simp only [onIdle, hf]

theorem exec_reset_busy (hf : s.feed = some w) : exec .reset s = .refused .overlappingCommand := by
  rw [exec, execReset, onIdle_busy hf]

theorem exec_feed_busy {chunk : List Byte} (hf : s.feed = some w) :
    exec (.feed chunk) s = .refused .overlappingCommand := by
  rw [exec, execFeed, onIdle_busy hf]

/-- The block does not stand where a word of format `fmt` is decoded: no FEED runs, or its stage has another format. -/
def State.StandsElsewhere (s : State) (fmt : Format) : Prop :=
  ∀ w, s.feed = some w → w.stage.format ≠ some fmt

theorem onHeader_elsewhere {k : FeedWork → Host.Outcome State Fault Refusal} (h : s.StandsElsewhere .tsHeader32) :
    onHeader s k = .fault .structureNotSelected := by
  cases hf : s.feed with
  | none => simp only [onHeader, hf]
  | some w =>
    cases hs : w.stage with
    | header => exact absurd (congrArg Stage.format hs) (h w hf)
    | _ => simp only [onHeader, hf, hs]

theorem onAfLength_elsewhere {k : FeedWork → Header → Host.Outcome State Fault Refusal}
    (h : s.StandsElsewhere .afLength8) : onAfLength s k = .fault .structureNotSelected := by
  cases hf : s.feed with
  | none => simp only [onAfLength, hf]
  | some w =>
    cases hs : w.stage with
    | afLength _ => exact absurd (congrArg Stage.format hs) (h w hf)
    | _ => simp only [onAfLength, hf, hs]

theorem onSubfields_elsewhere {k : FeedWork → Header → BodyWork → Host.Outcome State Fault Refusal}
    (h : s.StandsElsewhere .afFlags8) : onSubfields s k = .fault .structureNotSelected := by
  cases hf : s.feed with
  | none => simp only [onSubfields, hf]
  | some w =>
    cases hs : w.stage with
    | subfields _ _ => exact absurd (congrArg Stage.format hs) (h w hf)
    | _ => simp only [onSubfields, hf, hs]

theorem onExtension_elsewhere {k : FeedWork → Header → BodyWork → ExtWork → Host.Outcome State Fault Refusal}
    (h : s.StandsElsewhere .afextFlags8) : onExtension s k = .fault .structureNotSelected := by
  cases hf : s.feed with
  | none => simp only [onExtension, hf]
  | some w =>
    cases hs : w.stage with
    | extension _ _ _ => exact absurd (congrArg Stage.format hs) (h w hf)
    | _ => simp only [onExtension, hf, hs]

/-- A decode structure faults where the block does not stand at its format. -/
theorem exec_elsewhere (i : Instr) (hi : i.format ≠ .hostCmd) (h : s.StandsElsewhere i.format) :
    exec i s = .fault .structureNotSelected := by
  cases i with
  | reset | feed _ => exact absurd rfl hi
  | pktNone _ | pktPayload _ | pktAf _ | pktAfPayload _ => exact onHeader_elsewhere h
  | afEmpty | afBody _ => exact onAfLength_elsewhere h
  | afPcr | afOpcr | afSpliceCountdown | afPrivateData | afExtension => exact onSubfields_elsewhere h
  | extLtw | extPiecewiseRate | extSeamlessSplice => exact onExtension_elsewhere h

/-- Settles O9: both commands run on an idle block only, and a decode structure at its own format only. -/
theorem outOfPlaceInstructionsStop : Obligations.OutOfPlaceInstructionsStop :=
  ⟨fun _ _ _ hf => ⟨exec_reset_busy hf, exec_feed_busy hf⟩, fun _ => exec_elsewhere⟩

/-! ### Power-on (R230) -/

/-- Settles O10. -/
theorem powerOnStateIsEmpty : Obligations.PowerOnStateIsEmpty :=
  ⟨reset_buffer, reset_feed⟩

end Sys2Proof.Machine
end
